-- ==== Sys2Proof/Word.lean ====
section
/-! DEFINITION. The two word types of the machine: the byte of the score space, and the 32-bit word of a
channel's registers. Spec: 00_scope.md R7, R8; 10_state.md R15, R16. -/

namespace Sys2Proof

/-- A byte, `b[7:0]`, bit 0 the least significant (R7). -/
abbrev Byte := BitVec 8

/-- A channel register: `decrement` reads it as an unsigned number (R15), `accumulator` as a two's-complement
one, `int32` (R8, R16). -/
abbrev Word := BitVec 32

end Sys2Proof
end

