-- ==== Sys2Proof/Config.lean ====
section
/-! DEFINITION. The configuration: the constants the spec fixes (R5), the parameters it leaves OPEN (R6), and the
free values of the model. An OPEN parameter or a free value is an opaque constant with no body, so that a claim
holds whatever it is. -/

namespace Sys2Proof

/-- `RESTART = 2^22`: the accumulator of a note that starts (R5). -/
def Config.RESTART : Nat := 4194304

/-- `WAIT_ABS_MAX`: the largest absolute wait (R5). -/
def Config.waitAbsMax : Nat := 32767

/-- The base table space of R34: 12 unsigned entries, with the two constraints R34 puts on them. The zero table
only shows that the type is not empty. -/
structure BaseTable where
  /-- `BaseTable(k)`, for `k` in 0 to 11. -/
  entry : Fin 12 → Nat := fun _ => 0
  /-- R34 (a): non-decreasing, the weak reading (92_eei_decisions.md D3). -/
  mono : ∀ i j, i ≤ j → entry i ≤ entry j := by intros; exact Nat.le_refl _
  /-- R34 (b): no entry above `RESTART`. -/
  bound : ∀ k, entry k ≤ Config.RESTART := by intros; exact Nat.zero_le _
  deriving Inhabited

/-- OPEN parameter `BASE_TABLE` (R6, R34; D3): any table that meets the constraints. Log entry 1. -/
opaque Config.baseTable : BaseTable

/-- OPEN parameter `SCORE_CAPACITY`, in bytes (R6, R33; D6). Log entry 2. -/
opaque Config.scoreCapacity : Nat

/-- OPEN parameter `FAST_TICK_RATE`, in fast ticks a second (R6; D4). It enters only the frequency law, R89.
Log entry 3. -/
opaque Config.fastTickRate : ℚ

/-- OPEN parameter `SLOW_TICK_PERIOD`, in seconds (R6; D4). No step reads it. Log entry 3. -/
opaque Config.slowTickPeriod : ℚ

/-- OPEN parameter `TICK_RATIO`: fast ticks between two slow ticks (R6, R61; D5). Only a premise on a schedule
reads it. Log entry 3. -/
opaque Config.tickRatio : Nat

/-- One step of an agent outside a burst, with its operand (R59): the host's two entry points and its read of
`running` (R26), and the two tick inputs (R27). -/
inductive Event where
  | play (score : List Byte)
  | stop
  | readRunning
  | fastTick
  | slowTick
  deriving DecidableEq, Repr, Inhabited

/-- FREE VALUE: the schedule (R61; D5, D19). Which step of which agent comes next, where `State.arrivals` says
nothing; applied to the counter `State.draws`. Log entry 4. -/
opaque Config.arrival : Nat → Event

/-- FREE VALUE: the cursor after the `Stop` command, which has "no defined value" (R77; D29); applied to the
counter `State.draws`. Log entry 5. -/
opaque Config.cursorAfterStop : Nat → Nat

end Sys2Proof
end

