-- ==== Sys2Proof/Machine/Bits.lean ====
section
/-! DEFINITION. The bit-field helpers of the encoding and the commands: the two nibbles of a byte, and the count
of a mask's set bits (R7, R8). They stand here so that a repair may mend them. -/

namespace Sys2Proof.Machine

/-- `b[7:4]` (R7). -/
def highNibble (b : Byte) : BitVec 4 := b.extractLsb' 4 4

/-- `b[3:0]` (R7). -/
def lowNibble (b : Byte) : BitVec 4 := b.extractLsb' 0 4

/-- Is bit `i` of a channel mask set: does the mask select channel `i` (R47)? -/
def selects (mask : BitVec 4) (i : Nat) : Bool := mask.getLsbD i

/-- How many bits of `mask` below bit `i` are set: the place, counting from 0, of channel `i`'s pitch byte among
those of a `PlayNote` (R48). -/
def rank (mask : BitVec 4) : Nat → Nat
  | 0 => 0
  | i + 1 => rank mask i + (selects mask i).toNat

/-- `popcount(mask)`: the number of set bits (R8). -/
def popcount (mask : BitVec 4) : Nat := rank mask 4

end Sys2Proof.Machine
end

