-- ==== Sys2Proof/Syntax.lean ====
section
/-! DEFINITION. The six commands of the wire format, one constructor per row of spec/opcode_table.json, in the
table's order. An operand has the width of its field (R46), so the type itself keeps R58's bounds on `m`, `v` and `d`. -/

namespace Sys2Proof

/-- A wire-format command (R12, R46). -/
inductive Instr where
  /-- `WaitAbsolute(v)`, format A: the 15-bit `value` (R49). -/
  | waitabs (value : BitVec 15)
  /-- `StopNote(mask)`, format M with `op = 0` (R47). -/
  | stopnote (mask : BitVec 4)
  /-- `PlayNote(mask, pitch_byte…)`, format M with `op = 1` and one format P byte per set bit (R48). -/
  | playnote (mask : BitVec 4) (pitches : List Byte)
  /-- `Restart`, format Z, `0xA0`. -/
  | restart
  /-- `Stop`, format Z, `0xB0`. -/
  | stop
  /-- `WaitRelative(delta)`, format R: `delta6`, a 6-bit two's-complement number (R50). -/
  | waitrel (delta : BitVec 6)
  deriving DecidableEq, Repr

end Sys2Proof
end

