-- ==== Sys2Proof/WellFormed.lean ====
section
/-! DEFINITION. What an instruction must meet beyond its type, and the operand checks of the assembler (R58). -/

namespace Sys2Proof

/-- A `PlayNote` has exactly `popcount(mask)` pitch bytes (R48); every other command's type says all. -/
def Instr.wellFormed : Instr → Bool
  | .waitabs _ => true
  | .stopnote _ => true
  | .playnote mask pitches => pitches.length == Machine.popcount mask
  | .restart => true
  | .stop => true
  | .waitrel _ => true

/-- A line of the spec's assembly syntax (R58): operands are numbers as written, not yet checked. -/
inductive Assembly where
  | stopnote (m : Nat)
  | playnote (m : Nat) (pitches : List Byte)
  | restart
  | stop
  | waitabs (v : Nat)
  | waitrel (d : Int)
  deriving DecidableEq, Repr

/-- The operands an assembler accepts (R58): `m` in 0 to 15, `popcount(m)` pitch bytes, `v` in 0 to 32767, `d` in
-32 to 31. -/
def Assembly.accepted : Assembly → Bool
  | .stopnote m => decide (m ≤ 15)
  | .playnote m pitches => decide (m ≤ 15) && pitches.length == Machine.popcount (BitVec.ofNat 4 m)
  | .restart => true
  | .stop => true
  | .waitabs v => decide (v ≤ Config.waitAbsMax)
  | .waitrel d => decide (-32 ≤ d) && decide (d ≤ 31)

end Sys2Proof
end

