-- ==== Sys2Proof/Decode.lean ====
section
/-! DEFINITION. The decoder (R51, R52), total on any bytes and rejecting by name; then the encoder, written from
the formats of R46; the assembler (R58); and the bytes of a row of the opcode table. -/

namespace Sys2Proof

/-- Why bytes are no command. -/
inductive Reject where
  /-- The first byte is one of the 30 that start no command (R54). -/
  | illegalOpcode (b0 : Byte)
  /-- The bytes end where byte `k` of the command, counting its first as 0, should be fetched (R52). -/
  | overrun (k : Nat)
  deriving DecidableEq, Repr

/-- The length in bytes of the command that the first byte selects; none where it is illegal (R51). -/
def firstByteLength (b0 : Byte) : Option Nat :=
  if b0.extractLsb' 7 1 = 0b0#1 then some 2
  else if Machine.highNibble b0 = 0x8#4 then some 1
  else if Machine.highNibble b0 = 0x9#4 then some (1 + Machine.popcount (Machine.lowNibble b0))
  else if b0 = 0xA0#8 then some 1
  else if b0 = 0xB0#8 then some 1
  else if b0.extractLsb' 6 2 = 0b11#2 then some 1
  else none

/-- `decode` of R52 on the bytes from the cursor on: the command and the bytes after it. Operand bytes are taken
in ascending order, and the first that is missing stops decoding. -/
def decode : List Byte → Except Reject (Instr × List Byte)
  | [] => .error (.overrun 0)
  | b0 :: bs =>
    if b0.extractLsb' 7 1 = 0b0#1 then
      match bs with
      | [] => .error (.overrun 1)
      | b1 :: rest => .ok (.waitabs (b0.extractLsb' 0 7 ++ b1 : BitVec (7 + 8)), rest)
    else if Machine.highNibble b0 = 0x8#4 then .ok (.stopnote (Machine.lowNibble b0), bs)
    else if Machine.highNibble b0 = 0x9#4 then
      let n := Machine.popcount (Machine.lowNibble b0)
      if n ≤ bs.length then .ok (.playnote (Machine.lowNibble b0) (bs.take n), bs.drop n)
      else .error (.overrun (1 + bs.length))
    else if b0 = 0xA0#8 then .ok (.restart, bs)
    else if b0 = 0xB0#8 then .ok (.stop, bs)
    else if b0.extractLsb' 6 2 = 0b11#2 then .ok (.waitrel (b0.extractLsb' 0 6), bs)
    else .error (.illegalOpcode b0)

/-- The bytes of a command, from the formats of R46: A is `0 value[14:8]`, `value[7:0]`; M is `100 op mask`; P
follows as it is; Z is the whole byte; R is `11 delta6`. -/
def encode : Instr → List Byte
  | .waitabs value => [(0b0#1 ++ value.extractLsb' 8 7 : BitVec (1 + 7)), value.extractLsb' 0 8]
  | .stopnote mask => [(0b1000#4 ++ mask : BitVec (4 + 4))]
  | .playnote mask pitches => (0b1001#4 ++ mask : BitVec (4 + 4)) :: pitches
  | .restart => [0xA0#8]
  | .stop => [0xB0#8]
  | .waitrel delta => [(0b11#2 ++ delta : BitVec (2 + 6))]

/-- How many bytes the command takes (R51). -/
def Instr.length : Instr → Nat
  | .waitabs _ => 2
  | .stopnote _ => 1
  | .playnote mask _ => 1 + Machine.popcount mask
  | .restart => 1
  | .stop => 1
  | .waitrel _ => 1

/-- The longest command: `PlayNote` of all four channels (R51). -/
def maxLength : Nat := 5

/-- The command an assembly line stands for (R58); none where an operand is out of range. -/
def Assembly.toInstr (a : Assembly) : Option Instr :=
  if a.accepted then
    match a with
    | .stopnote m => some (.stopnote (BitVec.ofNat 4 m))
    | .playnote m pitches => some (.playnote (BitVec.ofNat 4 m) pitches)
    | .restart => some .restart
    | .stop => some .stop
    | .waitabs v => some (.waitabs (BitVec.ofNat 15 v))
    | .waitrel d => some (.waitrel (BitVec.ofInt 6 d))
  else none

/-- The assembler of R58: a line to its bytes. -/
def Assembly.assemble (a : Assembly) : Option (List Byte) := a.toInstr.map encode

/-- The `n` low bytes of `w`, the least significant first: byte 0 of an instruction is bits 7..0 of its number. -/
def wordBytes : Nat → Nat → List Byte
  | 0, _ => []
  | n + 1, w => BitVec.ofNat 8 w :: wordBytes n (w / 256)

/-- An instruction of the opcode table as stored bytes: the `nbits` bits the row has, then zeros up to the longest
command. -/
def tableBytes (nbits w : Nat) : List Byte :=
  let n := (nbits + 7) / 8
  wordBytes n (w % 2 ^ nbits) ++ List.replicate (maxLength - n) 0#8

/-- What the decoder reads from an instruction whose bits are `w`. -/
def decodeTableWord (nbits w : Nat) : Option Instr :=
  match decode (tableBytes nbits w) with
  | .ok (i, _) => some i
  | .error _ => none

end Sys2Proof
end

