-- ==== Sys2Proof/Machine/State.lean ====
section
/-! DEFINITION. The state of PTE as plain data (10_state.md), the faults and refusals, and the state after reset. -/

namespace Sys2Proof.Machine

/-- Four like things, one per channel (R14, R28): `NCH = 4` is fixed (R5). -/
structure Four (α : Type) where
  c0 : α
  c1 : α
  c2 : α
  c3 : α
  deriving DecidableEq, Repr

/-- A channel record (R14). -/
structure Channel where
  /-- The phase step, an unsigned number (R15). -/
  decrement : Word
  /-- The phase, a two's-complement number (R16). -/
  accumulator : Word
  /-- Is the channel stepped on each fast tick (R17)? -/
  active : Bool
  deriving DecidableEq, Repr

/-- The three values of `seq.state` (R19). -/
inductive SeqState where
  | stopped
  | executingCommands
  | waiting
  deriving DecidableEq, Repr

/-- The Sequencer record (R13). -/
structure Sequencer where
  /-- The state of the Sequencer's state machine (R19, R71). -/
  state : SeqState
  /-- The byte offset of the next command; it plays the part of a program counter (R21). -/
  cursor : Nat
  /-- Slow ticks left in the current wait (R22). -/
  remainingWaitTicks : Nat
  /-- The last absolute wait value (R23). -/
  waitBaseline : Nat
  /-- Has a `WaitAbsolute` written `waitBaseline` since the last `Play` (R23)? -/
  baselineValid : Bool
  deriving DecidableEq, Repr

/-- The score space (R33): `len` bytes at offsets 0 to `len - 1`. `cells` lists them by offset, strictly rising,
without the zero bytes (`Memory.wf`). -/
structure Memory where
  cells : List Host.Cell
  len : Nat
  deriving DecidableEq, Repr

/-- What an offset below `len` that `cells` does not list reads as: the byte 0. It is a byte that `Play` stored
(`Play` stores every byte of the score, R63), left out of the list for the canonical form; no byte of the score
space is ever unwritten. -/
def Memory.unlisted : Byte := 0#8

/-- The seven fault codes of R92, each with the info it records. A fault is raised into the record
`State.fault`, and a step of a state whose record is set answers it as its outcome: no agent has a further step
(R91). All are SAFE: the model stops where the source calls the behaviour undefined (D23; log entry 7). -/
inductive Fault where
  /-- Code 1, raised by the `Dispatch` step: the first byte starts no command (R93). Safe (D10). -/
  | illegalOpcode (cursor : Nat) (byte : Byte)
  /-- Code 2, raised by the `Dispatch` step: a fetch at an offset at or beyond `scoreLen` (R94). Safe (D11). -/
  | scoreOverrun (offset : Nat)
  /-- Code 3, raised by `PlayNote`: a pitch byte with `semitoneClass >= 12` (R95). Safe (D12). -/
  | semitoneOutOfRange (pitch : Byte)
  /-- Code 4, raised by `PlayNote`: a pitch byte with `octaveIndex >= 10` (R95). Safe (D12). -/
  | octaveOutOfRange (pitch : Byte)
  /-- Code 5, raised by `WaitAbsolute` and `WaitRelative`: a wait of 0 or less (R96). Safe (D9). -/
  | nonPositiveWait (cursor : Nat) (wait : Int)
  /-- Code 6, raised by `WaitRelative`: no `WaitAbsolute` since `Play` (R97). Safe (D8). -/
  | baselineUnset (cursor : Nat)
  /-- Code 7, raised by `Play`: a score longer than `SCORE_CAPACITY` (R98). Safe (D6). -/
  | scoreTooLarge (length : Nat)
  deriving DecidableEq, Repr

/-- Why the machine gives an instruction no meaning. -/
inductive Refusal where
  /-- Raised by `exec` for an instruction that has no meaning yet; no arm of this model does. Safe. -/
  | notModelled (mnemonic : String)
  /-- Raised by a meaning that is given a term which no bytes decode to: a `playnote` whose pitch bytes are not
  `popcount(mask)` many (R48). No step ever does. Safe; log entry 8. -/
  | illFormedOperands (mnemonic : String)
  deriving DecidableEq, Repr

/-- The state of PTE: the tuple `(ch[0..3], out[0..3], seq, score, fault)` of R13, and the model's own two
fields, which stand for what the spec leaves free. -/
structure State where
  /-- The channel records (R14). -/
  ch : Four Channel
  /-- The levels of the output lines (R18). -/
  out : Four Bool
  /-- The Sequencer record (R19 to R23). -/
  seq : Sequencer
  /-- The score buffer with its length (R33). -/
  score : Memory
  /-- The fault record (R24). -/
  fault : Option Fault
  /-- MODEL's own: the agent steps that come next outside a burst, the written-down part of the free schedule
  (R61). Log entry 4. -/
  arrivals : List Event
  /-- MODEL's own: the counter that `Config.arrival` and `Config.cursorAfterStop` are applied to. Log entry 5. -/
  draws : Nat
  deriving DecidableEq, Repr

/-- What power-on draws: the values of R32 that may be anything (D16, D29). -/
structure PowerOnDraws where
  decrement : Four Word
  accumulator : Four Word
  out : Four Bool
  cursor : Nat
  remainingWaitTicks : Nat
  waitBaseline : Nat
  deriving DecidableEq, Repr

/-- The state after power-on of R32 and R110, for the values `d` that power-on draws. -/
def State.powerOn (d : PowerOnDraws) : State where
  ch := ⟨⟨d.decrement.c0, d.accumulator.c0, false⟩, ⟨d.decrement.c1, d.accumulator.c1, false⟩,
    ⟨d.decrement.c2, d.accumulator.c2, false⟩, ⟨d.decrement.c3, d.accumulator.c3, false⟩⟩
  out := d.out
  seq := ⟨.stopped, d.cursor, d.remainingWaitTicks, d.waitBaseline, false⟩
  score := ⟨[], 0⟩
  fault := none
  arrivals := []
  draws := 0

/-- The state right after reset: power-on with every drawn value at zero and every line low. DESIGN CHOICE, log
entry 6: R32 lets each of them be anything. -/
def State.reset : State :=
  State.powerOn ⟨⟨0, 0, 0, 0⟩, ⟨0, 0, 0, 0⟩, ⟨false, false, false, false⟩, 0, 0, 0⟩

end Sys2Proof.Machine
end

