-- ==== Sys2Proof/Machine/Ops.lean ====
section
/-! DEFINITION. The named operations on the state: the channel banks, the score space, one update per field, and
raising a fault, which is this machine's only "taking an exception" (R91, R103). There is no return from one
(R104). -/

namespace Sys2Proof.Machine

/-- Member `i` of a bank. -/
def Four.get {α : Type} (v : Four α) (i : Fin 4) : α :=
  match i with
  | 0 => v.c0
  | 1 => v.c1
  | 2 => v.c2
  | 3 => v.c3

/-- The bank whose member `i` is `f i`. -/
def Four.ofFn {α : Type} (f : Fin 4 → α) : Four α := ⟨f 0, f 1, f 2, f 3⟩

/-- The byte that a list of cells holds for an offset. -/
def Memory.lookup : List Host.Cell → Nat → Byte
  | [], _ => Memory.unlisted
  | (a, b) :: cells, i => if a = i then b else Memory.lookup cells i

/-- `MemRead(i, 1)` on the score buffer (R9, R33): none at an offset at or beyond `scoreLen`. -/
def Memory.read (m : Memory) (i : Nat) : Option Byte :=
  if i < m.len then some (Memory.lookup m.cells i) else none

/-- The cells of the bytes `bs` stored from offset `a` on, in canonical form. -/
def Memory.cellsFrom : Nat → List Byte → List Host.Cell
  | _, [] => []
  | a, b :: bs =>
    if b = Memory.unlisted then Memory.cellsFrom (a + 1) bs else (a, b) :: Memory.cellsFrom (a + 1) bs

/-- The score buffer that `Play` loads: the bytes at offsets 0 on (R33, R63). -/
def Memory.ofBytes (bs : List Byte) : Memory := ⟨Memory.cellsFrom 0 bs, bs.length⟩

/-- Do the cells rise strictly from `lo` on, stay below `len`, and hold no byte that an unlisted offset reads
as? -/
def Memory.cellsWf (len : Nat) : Nat → List Host.Cell → Bool
  | _, [] => true
  | lo, (a, b) :: cells =>
    decide (lo ≤ a) && decide (a < len) && b != Memory.unlisted && Memory.cellsWf len (a + 1) cells

/-- The canonical form of the score space: equal contents are equal data. -/
def Memory.wf (m : Memory) : Bool := Memory.cellsWf m.len 0 m.cells

/-- The bytes that can be fetched at offsets `c` to `c + n - 1`: each is a `ScoreByte` read (R9), and none exists
at or beyond `scoreLen`. -/
def Memory.window (m : Memory) (c : Nat) : Nat → List Byte
  | 0 => []
  | n + 1 =>
    match m.read c with
    | some b => b :: Memory.window m (c + 1) n
    | none => []

/-! One update per field. -/

/-- Writes the channel records. -/
def State.setCh (v : Four Channel) (s : State) : State := { s with ch := v }

/-- Writes the output lines. -/
def State.setOut (v : Four Bool) (s : State) : State := { s with out := v }

/-- `seq.state <- v`. -/
def State.setSeqState (v : SeqState) (s : State) : State := { s with seq := { s.seq with state := v } }

/-- `seq.cursor <- v`. -/
def State.setCursor (v : Nat) (s : State) : State := { s with seq := { s.seq with cursor := v } }

/-- `seq.remainingWaitTicks <- v`. -/
def State.setRemaining (v : Nat) (s : State) : State := { s with seq := { s.seq with remainingWaitTicks := v } }

/-- `seq.waitBaseline <- v`. -/
def State.setBaseline (v : Nat) (s : State) : State := { s with seq := { s.seq with waitBaseline := v } }

/-- `seq.baselineValid <- v`. -/
def State.setBaselineValid (v : Bool) (s : State) : State := { s with seq := { s.seq with baselineValid := v } }

/-- `score <- v`, with its length. -/
def State.setScore (v : Memory) (s : State) : State := { s with score := v }

/-- Writes the fault record. -/
def State.setFault (v : Option Fault) (s : State) : State := { s with fault := v }

/-- Writes the placed schedule. -/
def State.setArrivals (v : List Event) (s : State) : State := { s with arrivals := v }

/-- Writes the counter of the free values. -/
def State.setDraws (v : Nat) (s : State) : State := { s with draws := v }

/-- `raise Fault(code, info)` (R91): the record is set and nothing else is written. The state that results is
the faulted condition; a step of it answers the fault. -/
def raiseFault (f : Fault) (s : State) : State := s.setFault (some f)

/-- The number of a fault's code (R92). -/
def Fault.code : Fault → Nat
  | .illegalOpcode _ _ => 1
  | .scoreOverrun _ => 2
  | .semitoneOutOfRange _ => 3
  | .octaveOutOfRange _ => 4
  | .nonPositiveWait _ _ => 5
  | .baselineUnset _ => 6
  | .scoreTooLarge _ => 7

/-- The channel records with `f` applied to each that `mask` selects (R47); the others are untouched. -/
def mapSelected (mask : BitVec 4) (f : Fin 4 → Channel → Channel) (ch : Four Channel) : Four Channel :=
  Four.ofFn fun i => if selects mask i then f i (ch.get i) else ch.get i

/-- `ch[i].active <- false`. -/
def Channel.deactivate (c : Channel) : Channel := { c with active := false }

/-- Why a fetch of a command at `cursor` faults (R93, R94): the offset is that of the byte that is missing. -/
def rejectFault (cursor : Nat) : Reject → Fault
  | .illegalOpcode b0 => .illegalOpcode cursor b0
  | .overrun k => .scoreOverrun (cursor + k)

/-- `decode(seq.cursor)` of R52: fetch the bytes at the cursor and decode one command. -/
def fetchDecode (s : State) : Except Fault Instr :=
  match decode (s.score.window s.seq.cursor maxLength) with
  | .ok (i, _) => .ok i
  | .error r => .error (rejectFault s.seq.cursor r)

end Sys2Proof.Machine
end

