-- ==== Sys2Proof/Machine/Flags.lean ====
section
/-! DEFINITION. The flags: `seq.state` and, through it, `running` (R10, R20). PTE has no condition codes. Here
stand the shared operations that write the flag. -/

namespace Sys2Proof.Machine

/-- `running = (seq.state != Stopped)`, a status and no storage (R20). -/
def State.running (s : State) : Bool := s.seq.state != .stopped

/-- `StopTransition()` (R64): every channel inactive, and `Stopped`. -/
def stopTransition (s : State) : State :=
  (s.setCh (Four.ofFn fun i => (s.ch.get i).deactivate)).setSeqState .stopped

/-- The entry into `Waiting` that the two wait commands share (R78, R79): the wait is loaded, the cursor moves past
the command's `len` bytes, the burst ends. -/
def enterWaiting (ticks len : Nat) (s : State) : State :=
  ((s.setRemaining ticks).setCursor (s.seq.cursor + len)).setSeqState .waiting

end Sys2Proof.Machine
end

