-- ==== Sys2Proof/Machine/ToneEngine.lean ====
section
/-! DEFINITION. The Tone Engine's step on a fast tick (R84). The pitch lookup, its other part, is in
Operands.lean. -/

namespace Sys2Proof.Machine

/-- `accumulator - decrement`, in `int32` arithmetic (R84). -/
def Channel.phase (c : Channel) : Word := c.accumulator - c.decrement

/-- Does the channel's accumulator underflow on this tick: is it active and the difference strictly negative
(R84)? -/
def Channel.underflows (c : Channel) : Bool := c.active && c.phase.msb

/-- The channel after the tick (R84): an inactive channel is frozen (R87). -/
def Channel.advance (c : Channel) : Channel :=
  if c.active then
    { c with accumulator := if c.phase.msb then c.phase + BitVec.ofNat 32 Config.RESTART else c.phase }
  else c

/-- `FastTick()` (R84): all four channels in one step, each line toggled when its channel underflows. -/
def fastTick (s : State) : State :=
  (s.setCh (Four.ofFn fun i => (s.ch.get i).advance)).setOut
    (Four.ofFn fun i => (s.out.get i) ^^ (s.ch.get i).underflows)

end Sys2Proof.Machine
end

