-- ==== Sys2Proof/Machine/Agents.lean ====
section
/-! DEFINITION. The agents and their schedule (40_sequencer_control.md): when each is enabled (R59), the host's
entry points (R63, R64, R66), the slow tick (R67), and which step comes next outside a burst (R61). -/

namespace Sys2Proof.Machine

/-- The four agents (R59). -/
inductive Agent where
  | host
  | fastTick
  | slowTick
  | dispatch
  deriving DecidableEq, Repr

/-- The column "enabled when" of R59's table. -/
def agentEnabled (a : Agent) (s : State) : Bool :=
  s.fault == none &&
    match a with
    | .dispatch => s.seq.state == .executingCommands
    | .host => s.seq.state != .executingCommands
    | .fastTick => s.seq.state != .executingCommands
    | .slowTick => s.seq.state != .executingCommands

/-- Whose step an event is (R59). -/
def eventAgent : Event → Agent
  | .play _ => .host
  | .stop => .host
  | .readRunning => .host
  | .fastTick => .fastTick
  | .slowTick => .slowTick

/-- `Play(score)` (R63): a score beyond the capacity faults; else the Stop transition where playback is on, the new
score, the cursor at 0, no baseline, and the first burst. -/
def play (bytes : List Byte) (s : State) : State :=
  if Config.scoreCapacity < bytes.length then raiseFault (.scoreTooLarge bytes.length) s
  else
    ((((if s.seq.state = .stopped then s else stopTransition s).setScore (Memory.ofBytes bytes)).setCursor
      0).setBaselineValid false).setSeqState .executingCommands

/-- `Stop()`, the external call (R64). -/
def stopCall (s : State) : State := stopTransition s

/-- The host's read of `running` (R66): the value it returns, and the state, which it does not change. -/
def readRunning (s : State) : Bool × State := (s.running, s)

/-- `SlowTick()` (R67). In `Stopped` it has no effect. -/
def slowTick (s : State) : State :=
  if s.seq.state = .waiting then
    if s.seq.remainingWaitTicks - 1 = 0 then
      (s.setRemaining (s.seq.remainingWaitTicks - 1)).setSeqState .executingCommands
    else s.setRemaining (s.seq.remainingWaitTicks - 1)
  else s

/-- One step of an agent other than `Dispatch` (R59). -/
def applyEvent (e : Event) (s : State) : State :=
  match e with
  | .play bytes => play bytes s
  | .stop => stopCall s
  | .readRunning => (readRunning s).2
  | .fastTick => fastTick s
  | .slowTick => slowTick s

/-- Which step comes next outside a burst (R61): the first that `arrivals` writes down; where it writes none, a
free value. Log entry 4. -/
def State.nextEvent (s : State) : Event :=
  match s.arrivals with
  | e :: _ => e
  | [] => Config.arrival s.draws

/-- The state with that step taken off the schedule. -/
def State.takeEvent (s : State) : State :=
  match s.arrivals with
  | _ :: es => s.setArrivals es
  | [] => s.setDraws (s.draws + 1)

/-- One step outside a burst. -/
def outsideStep (s : State) : State := applyEvent s.nextEvent s.takeEvent

end Sys2Proof.Machine
end

