-- ==== Sys2Proof/Machine/Control.lean ====
section
/-! DEFINITION. The control commands, format Z: `Restart` (R76) and `Stop` (R77). -/

namespace Sys2Proof.Machine

/-- `Restart` (R76): the cursor goes to the start of the score, and the burst goes on. -/
def execRestart (s : State) : Host.Outcome State Fault Refusal := .next (s.setCursor 0)

/-- `Stop` (R77): the Stop transition. The cursor has "no defined value" afterwards: a free value (log entry
5). -/
def execStop (s : State) : Host.Outcome State Fault Refusal :=
  .next (((stopTransition s).setCursor (Config.cursorAfterStop s.draws)).setDraws (s.draws + 1))

end Sys2Proof.Machine
end

