-- ==== Sys2Proof/Machine/Operands.lean ====
section
/-! DEFINITION. The operands of the commands: the pitch byte and its decrement (R48, R81, R82), and the wait of a
`WaitRelative` (R50, R79). -/

namespace Sys2Proof.Machine

/-- `octaveIndex = p[7:4]` (R48). -/
def octaveIndex (p : Byte) : Nat := (highNibble p).toNat

/-- `semitoneClass = p[3:0]` (R48). -/
def semitoneClass (p : Byte) : Nat := (lowNibble p).toNat

/-- `shift(o) = 9 - o`, for `o` in 0 to 9 (R81; kept as written, 90_conflicts.md C4). -/
def octaveShift (o : Nat) : Nat := 9 - o

/-- `NoteDecrement(p)` (R82): the semitone check first, then the octave check, then the table entry shifted
right. -/
def noteDecrement (p : Byte) : Except Fault Word :=
  if h : semitoneClass p < 12 then
    if octaveIndex p < 10 then
      .ok (BitVec.ofNat 32 (Config.baseTable.entry ⟨semitoneClass p, h⟩ >>> octaveShift (octaveIndex p)))
    else .error (.octaveOutOfRange p)
  else .error (.semitoneOutOfRange p)

/-- The decrements of a `PlayNote`'s pitch bytes, which stand in ascending channel order (R48): the first that
faults is reported (R75, R99). -/
def noteDecrements : List Byte → Except Fault (List Word)
  | [] => .ok []
  | p :: ps =>
    match noteDecrement p with
    | .error f => .error f
    | .ok d =>
      match noteDecrements ps with
      | .error f => .error f
      | .ok ds => .ok (d :: ds)

/-- `w = waitBaseline + sext_6(delta6)`, a mathematical integer (R79). -/
def relativeWait (s : State) (delta : BitVec 6) : Int := (s.seq.waitBaseline : Int) + delta.toInt

end Sys2Proof.Machine
end

