-- ==== Sys2Proof/Machine/Notes.lean ====
section
/-! DEFINITION. The note commands, format M: `StopNote` (R74) and `PlayNote` (R75). -/

namespace Sys2Proof.Machine

/-- `StopNote(mask)` (R74): the selected channels become inactive, and the cursor moves on. -/
def execStopnote (mask : BitVec 4) (s : State) : Host.Outcome State Fault Refusal :=
  .next ((s.setCh (mapSelected mask (fun _ => Channel.deactivate) s.ch)).setCursor (s.seq.cursor + 1))

/-- The channel that `PlayNote` starts with a decrement (R75): its accumulator at `RESTART`, active. -/
def startedChannel (decrement : Word) : Channel := ⟨decrement, BitVec.ofNat 32 Config.RESTART, true⟩

/-- `PlayNote(mask, pitch_byte…)` (R75): every check, then the writes. Channel `i`'s pitch byte is the one at
`rank mask i` (R48). -/
def execPlaynote (mask : BitVec 4) (pitches : List Byte) (s : State) : Host.Outcome State Fault Refusal :=
  if pitches.length = popcount mask then
    match noteDecrements pitches with
    | .error f => .next (raiseFault f s)
    | .ok ds =>
      .next ((s.setCh (mapSelected mask (fun i _ => startedChannel (ds.getD (rank mask i) 0)) s.ch)).setCursor
        (s.seq.cursor + (1 + popcount mask)))
  else .refused (.illFormedOperands "PLAYNOTE")

end Sys2Proof.Machine
end

