-- ==== Sys2Proof/Machine/Waits.lean ====
section
/-! DEFINITION. The wait commands, formats A and R: `WaitAbsolute` (R78) and `WaitRelative` (R79). -/

namespace Sys2Proof.Machine

/-- `WaitAbsolute(v)` (R78): wait `v` slow ticks and make `v` the baseline; 0 faults. -/
def execWaitabs (value : BitVec 15) (s : State) : Host.Outcome State Fault Refusal :=
  if value.toNat = 0 then .next (raiseFault (.nonPositiveWait s.seq.cursor 0) s)
  else .next ((enterWaiting value.toNat 2 s).setBaseline value.toNat |>.setBaselineValid true)

/-- `WaitRelative(delta)` (R79): wait `waitBaseline + delta` slow ticks; the baseline stays. -/
def execWaitrel (delta : BitVec 6) (s : State) : Host.Outcome State Fault Refusal :=
  if s.seq.baselineValid = false then .next (raiseFault (.baselineUnset s.seq.cursor) s)
  else if relativeWait s delta ≤ 0 then
    .next (raiseFault (.nonPositiveWait s.seq.cursor (relativeWait s delta)) s)
  else .next (enterWaiting (relativeWait s delta).toNat 1 s)

end Sys2Proof.Machine
end

