-- ==== Sys2Proof/Machine/Dispatch.lean ====
section
/-! DEFINITION. `execute(cmd, len)` of R70: one arm per command, in the order of spec/opcode_table.json. -/

namespace Sys2Proof.Machine

/-- Executes one decoded command (R70). -/
def exec (i : Instr) (s : State) : Host.Outcome State Fault Refusal :=
  match i with
  | .waitabs value => Sys2Proof.Machine.execWaitabs value s
  | .stopnote mask => Sys2Proof.Machine.execStopnote mask s
  | .playnote mask pitches => Sys2Proof.Machine.execPlaynote mask pitches s
  | .restart => Sys2Proof.Machine.execRestart s
  | .stop => Sys2Proof.Machine.execStop s
  | .waitrel delta => Sys2Proof.Machine.execWaitrel delta s

end Sys2Proof.Machine
end

