-- ==== Sys2Proof/Machine/Burst.lean ====
section
/-! DEFINITION. The `Dispatch` step (R70): decode and execute one command. -/

namespace Sys2Proof.Machine

/-- `Dispatch()` (R70): the fetch may fault (R93, R94), and then nothing is executed (R99). -/
def dispatchStep (s : State) : Host.Outcome State Fault Refusal :=
  match fetchDecode s with
  | .ok i => exec i s
  | .error f => .next (raiseFault f s)

end Sys2Proof.Machine
end

