-- ==== Sys2Proof/Machine/Step.lean ====
section
/-! DEFINITION. One step of the machine (R59, R60), and the state whose next step runs a given instruction. -/

namespace Sys2Proof.Machine

/-- One step. A faulted state has none: it answers its fault (R91). During a burst only `Dispatch` steps (R60);
outside one, the agent that the schedule names (R61). -/
def step (s : State) : Host.Outcome State Fault Refusal :=
  match s.fault with
  | some f => .fault f
  | none => if s.seq.state = .executingCommands then dispatchStep s else .next (outsideStep s)

/-- The state whose very next step runs the instruction with bits `w`: its bytes are the score, the cursor is at
them, and a burst runs, with no fault on record. It stands for a `Play` of a score that begins so. Log entry 9. -/
def State.withFetchWord (s : State) (nbits w : Nat) : State :=
  (((s.setScore (Memory.ofBytes (tableBytes nbits w))).setCursor 0).setSeqState .executingCommands).setFault none

end Sys2Proof.Machine
end

