-- ==== Sys2Proof/Safety.lean ====
section
/-! DEFINITION. The words of the claims: faulted and final states (R72, R91), the invariant of the machine, the
toggle law's numbers (R88, R89), and the steps of a run with a schedule's tick ratio (R61, R117). -/

namespace Sys2Proof.Machine

/-- The faulted condition of R91. -/
def State.Faulted (s : State) : Prop := s.fault ≠ none

/-- A final state (R72): no fault, and `Stopped`. -/
def State.Final (s : State) : Prop := s.fault = none ∧ s.seq.state = .stopped

/-- A channel within R15, R16 and R86: where it is active, `0 <= accumulator <= RESTART` and
`decrement <= RESTART`. -/
def Channel.InRange (c : Channel) : Prop :=
  c.active = true →
    0 ≤ c.accumulator.toInt ∧ c.accumulator.toInt ≤ Config.RESTART ∧ c.decrement.toNat ≤ Config.RESTART

/-- What every state that a run can reach meets. -/
structure State.Inv (s : State) : Prop where
  /-- R86, R15: each active channel is in range. -/
  channels : ∀ i, (s.ch.get i).InRange
  /-- R65: in `Stopped` every channel is inactive. -/
  stopped : s.seq.state = .stopped → ∀ i, (s.ch.get i).active = false
  /-- R67, R79: in `Waiting` there are 1 to 32798 ticks left. -/
  waiting : s.seq.state = .waiting → 1 ≤ s.seq.remainingWaitTicks ∧ s.seq.remainingWaitTicks ≤ 32798
  /-- R23, R78: a valid baseline is 1 to 32767. -/
  baseline : s.seq.baselineValid = true → 1 ≤ s.seq.waitBaseline ∧ s.seq.waitBaseline ≤ Config.waitAbsMax
  /-- R21: while playback is on, the cursor is 0 to `scoreLen`. -/
  cursor : s.seq.state ≠ .stopped → s.seq.cursor ≤ s.score.len
  /-- The score space is in its canonical form. -/
  memory : s.score.wf = true
  /-- R33: the score fits the buffer. -/
  capacity : s.score.len ≤ Config.scoreCapacity

/-- Is the pitch byte one that the lookup of R82 defines? -/
def PitchOk (p : Byte) : Prop := semitoneClass p < 12 ∧ octaveIndex p < 10

/-- Is the first byte one of the 30 illegal ones of R54, `0xA1`-`0xAF` and `0xB1`-`0xBF`? -/
def IllegalFirstByte (b0 : Byte) : Prop :=
  (0xA1 ≤ b0.toNat ∧ b0.toNat ≤ 0xAF) ∨ (0xB1 ≤ b0.toNat ∧ b0.toNat ≤ 0xBF)

/-- The score of `s` reads the same, byte by byte, as that of `t`. -/
def SameScore (s t : State) : Prop := t.score.len = s.score.len ∧ ∀ a, t.score.read a = s.score.read a

/-- How often channel `i` toggles its line in the first `n` of successive fast ticks from `s` on. -/
def togglesIn (i : Fin 4) (s : State) : Nat → Nat
  | 0 => 0
  | n + 1 => togglesIn i s n + ((fastTick^[n] s).ch.get i).underflows.toNat

/-- `T(n) = max(0, ceil(n * d / RESTART) - 1)` of R88. -/
def toggleLaw (d n : Nat) : Nat := (n * d + (Config.RESTART - 1)) / Config.RESTART - 1

/-- `FAST_TICK_RATE * d / (2 * RESTART)`: the square wave's frequency (R89), in the unit of
`Config.fastTickRate`. -/
def squareWaveFrequency (d : Nat) : ℚ := Config.fastTickRate * d / (2 * Config.RESTART)

/-- `n` steps, stopping at the first fault or refusal: `Host.Core.run` of this machine. -/
def runSteps : Nat → State → Host.Outcome State Fault Refusal
  | 0, s => .next s
  | n + 1, s =>
    match step s with
    | .next t => runSteps n t
    | .fault f => .fault f
    | .refused r => .refused r

/-- Is the event a tick of the external Tick Source (R27)? -/
def IsTick (e : Event) : Prop := e = .fastTick ∨ e = .slowTick

/-- Whose the first `n` steps from `s` are, in order: `none` for a step of `Dispatch`, else the event that the step
took (R59, R61). A faulted state has no step (R91). -/
def agentSteps : Nat → State → List (Option Event)
  | 0, _ => []
  | n + 1, s =>
    match step s with
    | .next t => (if s.seq.state = .executingCommands then none else some s.nextEvent) :: agentSteps n t
    | .fault _ => []
    | .refused _ => []

/-- The premise that a claim about the tick ratio puts on a schedule (R61; D5): between two consecutive `SlowTick`
steps stand exactly `TICK_RATIO` `FastTick` steps, give or take those held by a burst. `held j` bounds how many
fast ticks a burst held out of the `j`-th such interval, lost or delivered after it, and how many that a burst held
before come in it late (R60, R117; D19). R61 gives the allowance no form: that it is a number for each interval is
the model's choice. DESIGN CHOICE, log entry 3. -/
def RatioSchedule (held : Nat → Nat) (steps : List (Option Event)) : Prop :=
  ∀ before between after, steps = before ++ some .slowTick :: (between ++ some .slowTick :: after) →
    some .slowTick ∉ between →
    between.count (some .fastTick) ≤ Config.tickRatio + held (before.count (some .slowTick)) ∧
    Config.tickRatio ≤ between.count (some .fastTick) + held (before.count (some .slowTick))

/-- Only a burst holds ticks (R60): where no `Dispatch` step stands before the end of the `j`-th interval, `held j` is
0. For the steps of a run that starts with no held tick still to be delivered. The form is the model's choice. DESIGN
CHOICE, log entry 3. -/
def HeldByBursts (held : Nat → Nat) (steps : List (Option Event)) : Prop :=
  ∀ before between after, steps = before ++ some .slowTick :: (between ++ some .slowTick :: after) →
    some .slowTick ∉ between → none ∉ before → none ∉ between → held (before.count (some .slowTick)) = 0

/-- How long a wait of `ticks` slow ticks lasts in the unit of `Config.slowTickPeriod`, give or take the phase of
the first tick (R68, R106). -/
def waitDuration (ticks : Nat) : ℚ := ticks * Config.slowTickPeriod

end Sys2Proof.Machine
end

