-- ==== Sys2Proof/Certificates/Slice0/Obligations.lean ====
section
/-! DEFINITION. The statements for the provers. -/

open Sys2Proof Sys2Proof.Machine

/-! The wire format. -/

/-- R46, R52: decoding the encoding of a well-formed instruction gives it back, whatever bytes follow. -/
def Obligations.DecodeOfEncodeIsTheInstruction : Prop :=
  ∀ (i : Instr) (rest : List Byte), i.wellFormed = true → decode (encode i ++ rest) = .ok (i, rest)

/-- R46, R52: whatever decodes is well formed, and the bytes read are exactly its encoding. -/
def Obligations.DecodedBytesAreTheEncoding : Prop :=
  ∀ (bs : List Byte) (i : Instr) (rest : List Byte), decode bs = .ok (i, rest) →
    i.wellFormed = true ∧ bs = encode i ++ rest

/-- R54: the decoder rejects a first byte as illegal for exactly the 30 bytes, and names that byte. -/
def Obligations.IllegalFirstBytesAreRejected : Prop :=
  ∀ (b0 : Byte) (bs : List Byte) (b : Byte),
    decode (b0 :: bs) = .error (.illegalOpcode b) ↔ b = b0 ∧ IllegalFirstByte b0

/-- R52: the decoder reports a missing byte exactly where the bytes end before the command that the first byte
selects does, and names the first that is missing. -/
def Obligations.TruncatedCommandsAreRejected : Prop :=
  ∀ (bs : List Byte) (k : Nat), decode bs = .error (.overrun k) ↔
    k = bs.length ∧
      (bs = [] ∨ ∃ b0 n, bs.head? = some b0 ∧ firstByteLength b0 = some n ∧ bs.length < n)

/-- R51: a command's length is a function of its first byte, with the values R51 lists. -/
def Obligations.LengthIsDecidedByTheFirstByte : Prop :=
  (∀ (b0 : Byte) (bs : List Byte) (i : Instr) (rest : List Byte), decode (b0 :: bs) = .ok (i, rest) →
    firstByteLength b0 = some i.length ∧ rest = (b0 :: bs).drop i.length) ∧
  ∀ b0 : Byte,
    (b0.toNat < 0x80 → firstByteLength b0 = some 2) ∧
    (0x80 ≤ b0.toNat → b0.toNat ≤ 0x8F → firstByteLength b0 = some 1) ∧
    (0x90 ≤ b0.toNat → b0.toNat ≤ 0x9F → firstByteLength b0 = some (1 + popcount (b0.extractLsb' 0 4))) ∧
    (b0.toNat = 0xA0 ∨ b0.toNat = 0xB0 → firstByteLength b0 = some 1) ∧
    (0xC0 ≤ b0.toNat → firstByteLength b0 = some 1) ∧
    (IllegalFirstByte b0 → firstByteLength b0 = none)

/-- R52, R53: words of each family decode to what they stand for, or are rejected as the map and the fetch order
say. The words stand in 95_test_vectors.md: L2.1, but for `[0x85]` (L2.8, R74) and `[0x93, 0x40, 0x50]` (L3 P6,
R75). -/
def Obligations.SpecWordsDecode : Prop :=
  decode [0x01, 0xF4] = .ok (.waitabs 500, []) ∧
  decode [0x85] = .ok (.stopnote 5, []) ∧
  decode [0x93, 0x40, 0x50] = .ok (.playnote 3 [0x40, 0x50], []) ∧
  decode [0xA0] = .ok (.restart, []) ∧
  decode [0xB0] = .ok (.stop, []) ∧
  decode [0xE0] = .ok (.waitrel (-32), []) ∧
  decode [0xA5] = .error (.illegalOpcode 0xA5) ∧
  decode [0x93, 0x40] = .error (.overrun 2)

/-- R49, R50: the value of format A is big-endian, and the delta of format R is a 6-bit two's-complement
number. -/
def Obligations.WaitOperandsAreReadFromTheirFields : Prop :=
  (∀ (b0 b1 : Byte) (rest : List Byte), b0.toNat < 0x80 →
    ∃ v, decode (b0 :: b1 :: rest) = .ok (.waitabs v, rest) ∧ v.toNat = b0.toNat * 256 + b1.toNat) ∧
  (∀ (b0 : Byte) (rest : List Byte), 0xC0 ≤ b0.toNat →
    ∃ d, decode (b0 :: rest) = .ok (.waitrel d, rest) ∧
      d.toInt = if b0.toNat ≤ 0xDF then (b0.toNat : Int) - 0xC0 else (b0.toNat : Int) - 0x100)

/-- R47, R48: the mask is the low four bits; a `PlayNote` is followed by as many pitch bytes as the mask has set
bits, byte `k` for the `k`-th lowest set bit; a pitch byte is octave and semitone class. -/
def Obligations.NoteOperandsAreReadFromTheirFields : Prop :=
  (∀ (b0 : Byte) (rest : List Byte), 0x80 ≤ b0.toNat → b0.toNat ≤ 0x8F →
    ∃ m, decode (b0 :: rest) = .ok (.stopnote m, rest) ∧ m.toNat = b0.toNat - 0x80) ∧
  (∀ (b0 : Byte) (pitches rest : List Byte), 0x90 ≤ b0.toNat → b0.toNat ≤ 0x9F →
    pitches.length = (Finset.univ.filter fun i : Fin 4 => b0.toNat.testBit i = true).card →
    ∃ m, decode (b0 :: (pitches ++ rest)) = .ok (.playnote m pitches, rest) ∧ m.toNat = b0.toNat - 0x90) ∧
  (∀ (m : BitVec 4) (i : Fin 4), selects m i = m.toNat.testBit i ∧
    rank m i = (Finset.univ.filter fun j : Fin 4 => j < i ∧ selects m j = true).card) ∧
  (∀ p : Byte, octaveIndex p = p.toNat / 16 ∧ semitoneClass p = p.toNat % 16)

/-- R58: the assembler's bytes for each line, and the operands it rejects. -/
def Obligations.AssemblerEmitsTheListedBytes : Prop :=
  (∀ m, Assembly.assemble (.stopnote m) = if m ≤ 15 then some [BitVec.ofNat 8 (0x80 + m)] else none) ∧
  (∀ m ps, Assembly.assemble (.playnote m ps) =
    if m ≤ 15 ∧ ps.length = popcount (BitVec.ofNat 4 m) then some (BitVec.ofNat 8 (0x90 + m) :: ps) else none) ∧
  Assembly.assemble .restart = some [0xA0] ∧
  Assembly.assemble .stop = some [0xB0] ∧
  (∀ v, Assembly.assemble (.waitabs v) =
    if v ≤ 32767 then some [BitVec.ofNat 8 (v / 256), BitVec.ofNat 8 (v % 256)] else none) ∧
  (∀ d, Assembly.assemble (.waitrel d) =
    if -32 ≤ d ∧ d ≤ 31 then some [BitVec.ofNat 8 (0xC0 + (d % 64).toNat)] else none)

/-! The score space. -/

/-- R33, R63: after a load, offset `a` reads byte `a` of the score, and nothing can be read past its end. -/
def Obligations.LoadedScoreReadsBack : Prop :=
  ∀ (bs : List Byte) (a : Nat), (Memory.ofBytes bs).read a = bs[a]?

/-- The canonical form (log entry 10, the model's choice): two score spaces that read the same are the same
data. -/
def Obligations.EqualScoresAreEqualData : Prop :=
  ∀ m n : Memory, m.wf = true → n.wf = true → m.len = n.len → (∀ a, m.read a = n.read a) → m = n

/-- R40: no command and no entry point other than `Play` changes the score. -/
def Obligations.OnlyPlayChangesTheScore : Prop :=
  ∀ s t : State, step s = .next t → (t.score.len ≠ s.score.len ∨ ∃ a, t.score.read a ≠ s.score.read a) →
    s.seq.state ≠ .executingCommands ∧
      ∃ bytes, s.nextEvent = .play bytes ∧ t.score.len = bytes.length ∧ ∀ a, t.score.read a = bytes[a]?

/-! A step. -/

/-- R70: where the bytes at the cursor are the encoding of a well-formed instruction, a step in a burst is the
execution of that instruction, and nothing besides. -/
def Obligations.StepRunsTheInstructionAtTheCursor : Prop :=
  ∀ (s : State) (i : Instr), s.fault = none → s.seq.state = .executingCommands → i.wellFormed = true →
    (∀ k, k < (encode i).length → s.score.read (s.seq.cursor + k) = (encode i)[k]?) →
    step s = exec i s

/-- R54, R93: an illegal first byte at the cursor raises `IllegalOpcode` with the cursor and the byte, and writes
nothing else. -/
def Obligations.StepRaisesIllegalOpcode : Prop :=
  ∀ (s : State) (b0 : Byte), s.fault = none → s.seq.state = .executingCommands →
    s.score.read s.seq.cursor = some b0 → IllegalFirstByte b0 →
    step s = .next { s with fault := some (.illegalOpcode s.seq.cursor b0) }

/-- R94: a fetch of a first byte or an operand byte at or beyond `scoreLen` raises `ScoreOverrun` with the offset;
an empty score is accepted by `Play` and faults at offset 0 in the first `Dispatch` step. -/
def Obligations.StepRaisesScoreOverrun : Prop :=
  (∀ s : State, s.fault = none → s.seq.state = .executingCommands → s.score.len ≤ s.seq.cursor →
    step s = .next { s with fault := some (.scoreOverrun s.seq.cursor) }) ∧
  (∀ (s : State) (b0 : Byte) (n : Nat), s.fault = none → s.seq.state = .executingCommands →
    s.score.read s.seq.cursor = some b0 → firstByteLength b0 = some n → s.score.len < s.seq.cursor + n →
    step s = .next { s with fault := some (.scoreOverrun s.score.len) }) ∧
  (∀ s : State, s.fault = none → s.seq.state ≠ .executingCommands → s.nextEvent = .play [] →
    ∃ t, step s = .next t ∧ t.fault = none ∧ step t = .next { t with fault := some (.scoreOverrun 0) })

/-- R91: raising a fault writes the record and nothing else; a faulted state has no further step of any agent, is
never final, and its record stays. -/
def Obligations.FaultsWriteNothingAndAreTerminal : Prop :=
  (∀ (s t : State) (f : Fault), step s = .next t → t.fault = some f →
    t.ch = s.ch ∧ t.out = s.out ∧ t.seq = s.seq ∧ t.score = s.score) ∧
  (∀ (s : State) (f : Fault), s.fault = some f →
    step s = .fault f ∧ (∀ a, agentEnabled a s = false) ∧ ¬ s.Final)

/-- No step of a state without a fault stops: the machine never refuses a score and never faults without the
record. -/
def Obligations.EveryUnfaultedStateSteps : Prop :=
  ∀ s : State, s.fault = none → ∃ t, step s = .next t

/-- R16, R21, R23, R33, R65, R67, R86: every step keeps the invariant. -/
def Obligations.EveryStepKeepsTheInvariant : Prop :=
  ∀ s t : State, s.Inv → step s = .next t → t.Inv

/-- R32: every power-on state, and reset among them, meets the invariant. -/
def Obligations.PowerOnMeetsTheInvariant : Prop :=
  (∀ d, (State.powerOn d).Inv) ∧ State.reset.Inv

/-- R32, R110: power-on is `Stopped` with every channel inactive, no baseline, an empty score and no fault, and any
value in each field that is drawn; ticks do nothing there; reset is one such state. -/
def Obligations.PowerOnIsStoppedAndSilent : Prop :=
  (∀ d : PowerOnDraws,
    (State.powerOn d).seq = ⟨.stopped, d.cursor, d.remainingWaitTicks, d.waitBaseline, false⟩ ∧
    (State.powerOn d).running = false ∧
    (∀ i, (State.powerOn d).ch.get i = ⟨d.decrement.get i, d.accumulator.get i, false⟩) ∧
    (State.powerOn d).out = d.out ∧ (State.powerOn d).score.len = 0 ∧
    (∀ a, (State.powerOn d).score.read a = none) ∧ (State.powerOn d).fault = none ∧
    ∀ e, IsTick e → applyEvent e (State.powerOn d) = State.powerOn d) ∧
  ∃ d, State.reset = State.powerOn d

/-! The commands. -/

/-- R74: `StopNote` completes in every state: it deactivates exactly the selected channels and moves the cursor by
1. -/
def Obligations.StopNoteDeactivatesTheSelected : Prop :=
  ∀ (mask : BitVec 4) (s : State),
    (∃ b0, encode (.stopnote mask) = [b0] ∧ b0.toNat = 0x80 + mask.toNat) ∧
    ∃ t, exec (.stopnote mask) s = .next t ∧
      (∀ i : Fin 4, selects mask i = true → t.ch.get i = { s.ch.get i with active := false }) ∧
      (∀ i : Fin 4, selects mask i = false → t.ch.get i = s.ch.get i) ∧
      t.seq = { s.seq with cursor := s.seq.cursor + 1 } ∧
      t.out = s.out ∧ SameScore s t ∧ t.fault = s.fault ∧ t.arrivals = s.arrivals ∧ t.draws = s.draws

/-- R75, R95: `PlayNote` with pitch bytes that the lookup defines completes: each selected channel gets its pitch
byte's decrement, `RESTART` and `active`, the others stay, and the cursor moves past the command. Otherwise the first
bad pitch byte in ascending channel order is reported, its semitone class before its octave, and nothing is
written. -/
def Obligations.PlayNoteStartsTheSelected : Prop :=
  (∀ (mask : BitVec 4) (pitches : List Byte) (s : State), pitches.length = popcount mask →
    (∀ p ∈ pitches, PitchOk p) →
    (∃ b0, encode (.playnote mask pitches) = b0 :: pitches ∧ b0.toNat = 0x90 + mask.toNat) ∧
    ∃ t, exec (.playnote mask pitches) s = .next t ∧
      (∀ i : Fin 4, selects mask i = true →
        ∃ p, pitches[rank mask i]? = some p ∧ ∃ h : semitoneClass p < 12,
          (t.ch.get i).decrement.toNat = Config.baseTable.entry ⟨semitoneClass p, h⟩ / 2 ^ (9 - octaveIndex p) ∧
          (t.ch.get i).accumulator.toInt = 4194304 ∧ (t.ch.get i).active = true) ∧
      (∀ i : Fin 4, selects mask i = false → t.ch.get i = s.ch.get i) ∧
      t.seq = { s.seq with cursor := s.seq.cursor + (1 + popcount mask) } ∧
      t.out = s.out ∧ SameScore s t ∧ t.fault = s.fault ∧ t.arrivals = s.arrivals ∧ t.draws = s.draws) ∧
  (∀ (mask : BitVec 4) (good rest : List Byte) (p : Byte) (s : State),
    (good ++ p :: rest).length = popcount mask → (∀ q ∈ good, PitchOk q) →
    (12 ≤ semitoneClass p →
      exec (.playnote mask (good ++ p :: rest)) s = .next { s with fault := some (.semitoneOutOfRange p) }) ∧
    (semitoneClass p < 12 → 10 ≤ octaveIndex p →
      exec (.playnote mask (good ++ p :: rest)) s = .next { s with fault := some (.octaveOutOfRange p) }))

/-- The model's choice, log entry 8: a `playnote` term that no bytes decode to is refused by name. -/
def Obligations.IllFormedPlayNoteIsRefused : Prop :=
  ∀ (mask : BitVec 4) (pitches : List Byte) (s : State), pitches.length ≠ popcount mask →
    exec (.playnote mask pitches) s = .refused (.illFormedOperands "PLAYNOTE")

/-- R76: `Restart` completes in every state and writes the cursor only. -/
def Obligations.RestartWritesTheCursorOnly : Prop :=
  encode .restart = [0xA0] ∧
  ∀ s : State, ∃ t, exec .restart s = .next t ∧ t.seq = { s.seq with cursor := 0 } ∧
    (∀ i, t.ch.get i = s.ch.get i) ∧ t.out = s.out ∧ SameScore s t ∧ t.fault = s.fault ∧
    t.arrivals = s.arrivals ∧ t.draws = s.draws

/-- R77: `Stop` completes in every state: every channel inactive, `Stopped`, everything else as it was. Nothing is
said of the cursor, which has no defined value. -/
def Obligations.StopEndsPlayback : Prop :=
  encode .stop = [0xB0] ∧
  ∀ s : State, ∃ t, exec .stop s = .next t ∧
    (∀ i, t.ch.get i = { s.ch.get i with active := false }) ∧
    t.seq = { s.seq with state := .stopped, cursor := t.seq.cursor } ∧ t.running = false ∧
    t.out = s.out ∧ SameScore s t ∧ t.fault = s.fault ∧ t.arrivals = s.arrivals

/-- R78: `WaitAbsolute` of a value of at least 1 completes: it loads the wait and the baseline and enters
`Waiting`. The value 0 raises `NonPositiveWait` and writes nothing else. -/
def Obligations.WaitAbsoluteLoadsTheWait : Prop :=
  (∀ v : BitVec 15, ∃ b0 b1, encode (.waitabs v) = [b0, b1] ∧ b0.toNat * 256 + b1.toNat = v.toNat) ∧
  (∀ (v : BitVec 15) (s : State), 1 ≤ v.toNat → ∃ t, exec (.waitabs v) s = .next t ∧
    t.seq = ⟨.waiting, s.seq.cursor + 2, v.toNat, v.toNat, true⟩ ∧ t.running = true ∧
    (∀ i, t.ch.get i = s.ch.get i) ∧ t.out = s.out ∧ SameScore s t ∧ t.fault = s.fault ∧
    t.arrivals = s.arrivals ∧ t.draws = s.draws) ∧
  (∀ (v : BitVec 15) (s : State), v.toNat = 0 →
    exec (.waitabs v) s = .next { s with fault := some (.nonPositiveWait s.seq.cursor 0) })

/-- R79, R97: `WaitRelative` with a valid baseline and a positive sum completes: it loads the sum, leaves the
baseline and enters `Waiting`. Without a baseline it raises `BaselineUnset`, whatever the sum; with one and a sum of
0 or less, `NonPositiveWait`; and then it writes nothing else. -/
def Obligations.WaitRelativeLoadsTheSum : Prop :=
  (∀ d : BitVec 6, ∃ b0, encode (.waitrel d) = [b0] ∧ b0.toNat = 0xC0 + d.toNat) ∧
  (∀ (d : BitVec 6) (s : State), s.seq.baselineValid = true → 0 < (s.seq.waitBaseline : Int) + d.toInt →
    ∃ t, exec (.waitrel d) s = .next t ∧
      (t.seq.remainingWaitTicks : Int) = s.seq.waitBaseline + d.toInt ∧
      t.seq = { s.seq with
        state := .waiting, cursor := s.seq.cursor + 1, remainingWaitTicks := t.seq.remainingWaitTicks } ∧
      (∀ i, t.ch.get i = s.ch.get i) ∧ t.out = s.out ∧ SameScore s t ∧ t.fault = s.fault ∧
      t.arrivals = s.arrivals ∧ t.draws = s.draws) ∧
  (∀ (d : BitVec 6) (s : State), s.seq.baselineValid = true → (s.seq.waitBaseline : Int) + d.toInt ≤ 0 →
    exec (.waitrel d) s =
      .next { s with fault := some (.nonPositiveWait s.seq.cursor (s.seq.waitBaseline + d.toInt)) }) ∧
  (∀ (d : BitVec 6) (s : State), s.seq.baselineValid = false →
    exec (.waitrel d) s = .next { s with fault := some (.baselineUnset s.seq.cursor) })

/-- R23, R80: over all steps, only a `WaitAbsolute` writes the baseline, and every wait that a step loads is that of
its own byte over the last baseline. -/
def Obligations.RelativeWaitsDoNotDrift : Prop :=
  (∀ s t : State, step s = .next t → t.seq.waitBaseline ≠ s.seq.waitBaseline →
    s.seq.state = .executingCommands ∧ ∃ v, fetchDecode s = .ok (.waitabs v) ∧ t.seq.waitBaseline = v.toNat) ∧
  (∀ (s t : State) (d : BitVec 6), s.seq.state = .executingCommands → fetchDecode s = .ok (.waitrel d) →
    step s = .next t → t.fault = none →
    (t.seq.remainingWaitTicks : Int) = s.seq.waitBaseline + d.toInt ∧ t.seq.waitBaseline = s.seq.waitBaseline)

/-! Who writes what. -/

/-- R30: in a burst, each piece of state changes only by a command that has a W in its row of the access matrix, and
a channel only where the command selects it. The cursor goes to 0 by `Restart`, past the command by the others, and
nowhere where the command faults; but nothing is said of the cursor that `Stop` leaves, which has no defined value
(R77, log entry 5). -/
def Obligations.CommandsWriteWhatTheMatrixLists : Prop :=
  ∀ (s t : State) (c : Instr), s.seq.state = .executingCommands → fetchDecode s = .ok c → step s = .next t →
    (∀ i : Fin 4, (t.ch.get i).decrement ≠ (s.ch.get i).decrement →
      ∃ m ps, c = .playnote m ps ∧ selects m i = true) ∧
    (∀ i : Fin 4, (t.ch.get i).accumulator ≠ (s.ch.get i).accumulator →
      ∃ m ps, c = .playnote m ps ∧ selects m i = true) ∧
    (∀ i : Fin 4, (t.ch.get i).active ≠ (s.ch.get i).active →
      (∃ m, c = .stopnote m ∧ selects m i = true) ∨ (∃ m ps, c = .playnote m ps ∧ selects m i = true) ∨ c = .stop) ∧
    (t.seq.state ≠ s.seq.state → c = .stop ∨ (∃ v, c = .waitabs v) ∨ ∃ d, c = .waitrel d) ∧
    (t.seq.remainingWaitTicks ≠ s.seq.remainingWaitTicks → (∃ v, c = .waitabs v) ∨ ∃ d, c = .waitrel d) ∧
    (t.seq.waitBaseline ≠ s.seq.waitBaseline → ∃ v, c = .waitabs v) ∧
    (t.seq.baselineValid ≠ s.seq.baselineValid → ∃ v, c = .waitabs v) ∧
    (t.fault ≠ none → t.seq.cursor = s.seq.cursor) ∧
    (t.fault = none → c ≠ .stop → t.seq.cursor = if c = .restart then 0 else s.seq.cursor + c.length) ∧
    t.out = s.out ∧ t.score = s.score

/-- R30: outside a burst, each piece of state changes only by an entry point or a tick that has a W in its row of
the access matrix. -/
def Obligations.OutsideStepsWriteWhatTheMatrixLists : Prop :=
  ∀ s t : State, s.seq.state ≠ .executingCommands → step s = .next t →
    (∀ i : Fin 4, (t.ch.get i).decrement = (s.ch.get i).decrement) ∧
    (∀ i : Fin 4, (t.ch.get i).accumulator ≠ (s.ch.get i).accumulator → s.nextEvent = .fastTick) ∧
    (∀ i : Fin 4, (t.ch.get i).active ≠ (s.ch.get i).active →
      s.nextEvent = .stop ∨ ∃ bytes, s.nextEvent = .play bytes) ∧
    (t.out ≠ s.out → s.nextEvent = .fastTick) ∧
    (t.seq.state ≠ s.seq.state →
      s.nextEvent = .stop ∨ s.nextEvent = .slowTick ∨ ∃ bytes, s.nextEvent = .play bytes) ∧
    (t.seq.cursor ≠ s.seq.cursor → ∃ bytes, s.nextEvent = .play bytes) ∧
    (t.seq.remainingWaitTicks ≠ s.seq.remainingWaitTicks → s.nextEvent = .slowTick) ∧
    t.seq.waitBaseline = s.seq.waitBaseline ∧
    (t.seq.baselineValid ≠ s.seq.baselineValid → ∃ bytes, s.nextEvent = .play bytes) ∧
    (t.score ≠ s.score → ∃ bytes, s.nextEvent = .play bytes)

/-- R71: the next value of `seq.state` is the one that the transition table gives for the command or the event, and
a step that faults leaves it. One case is no row of the table but the model's choice (log entry 11): a slow tick in
`Waiting` with 0 ticks left, which no run reaches, goes to `ExecutingCommands`. -/
def Obligations.SequencerStateFollowsTheTable : Prop :=
  ∀ s t : State, step s = .next t →
    (t.fault ≠ none → t.seq.state = s.seq.state) ∧
    (t.fault = none → s.seq.state = .executingCommands → ∃ c, fetchDecode s = .ok c ∧
      match c with
      | .waitabs _ => t.seq.state = .waiting ∧ 1 ≤ t.seq.remainingWaitTicks
      | .stopnote _ => t.seq.state = .executingCommands
      | .playnote _ _ => t.seq.state = .executingCommands
      | .restart => t.seq.state = .executingCommands
      | .stop => t.seq.state = .stopped
      | .waitrel _ => t.seq.state = .waiting ∧ 1 ≤ t.seq.remainingWaitTicks) ∧
    (t.fault = none → s.seq.state ≠ .executingCommands →
      match s.nextEvent with
      | .play bytes => t.seq.state = .executingCommands ∧ bytes.length ≤ Config.scoreCapacity
      | .stop => t.seq.state = .stopped
      | .readRunning => t.seq.state = s.seq.state
      | .fastTick => t.seq.state = s.seq.state
      | .slowTick =>
        t.seq.state = if s.seq.state = .waiting ∧ s.seq.remainingWaitTicks - 1 = 0 then .executingCommands
          else s.seq.state)

/-- R59, R60: in a burst `Dispatch` alone is enabled, and no step takes an event from the schedule or moves a line;
outside a burst every other agent is enabled. -/
def Obligations.OnlyDispatchStepsInABurst : Prop :=
  (∀ (s : State) (a : Agent), s.fault = none →
    (agentEnabled a s = true ↔ (a = .dispatch ↔ s.seq.state = .executingCommands))) ∧
  (∀ s t : State, s.seq.state = .executingCommands → step s = .next t → t.arrivals = s.arrivals ∧ t.out = s.out) ∧
  (∀ s t : State, s.seq.state ≠ .executingCommands → step s = .next t → agentEnabled (eventAgent s.nextEvent) s = true)

/-- R18: an output line changes only by the toggle of a fast tick, and only when its channel's accumulator
underflows. -/
def Obligations.LinesChangeOnlyByAnUnderflow : Prop :=
  ∀ (s t : State) (i : Fin 4), step s = .next t → t.out.get i ≠ s.out.get i →
    s.seq.state ≠ .executingCommands ∧ s.nextEvent = .fastTick ∧ (s.ch.get i).active = true ∧
      ((s.ch.get i).accumulator - (s.ch.get i).decrement).toInt < 0 ∧ t.out.get i = !(s.out.get i)

/-! The Tone Engine. -/

/-- R84, R85, R87: a fast tick of an active channel subtracts the decrement in `int32`, toggles the line and adds
`RESTART` when the difference is strictly negative, and does no more; in the range of R86 that is the same in
mathematical integers; an inactive channel and its line stay as they are. -/
def Obligations.FastTickStepsActiveChannels : Prop :=
  ∀ s : State, s.fault = none → s.seq.state ≠ .executingCommands → s.nextEvent = .fastTick →
    ∃ t, step s = .next t ∧
      (∀ i, (s.ch.get i).active = true →
        (t.ch.get i).decrement = (s.ch.get i).decrement ∧ (t.ch.get i).active = true ∧
        if ((s.ch.get i).accumulator - (s.ch.get i).decrement).toInt < 0 then
          (t.ch.get i).accumulator = (s.ch.get i).accumulator - (s.ch.get i).decrement + 4194304#32 ∧
          t.out.get i = !(s.out.get i)
        else
          (t.ch.get i).accumulator = (s.ch.get i).accumulator - (s.ch.get i).decrement ∧
          t.out.get i = s.out.get i) ∧
      (∀ i, (s.ch.get i).active = true → (s.ch.get i).InRange →
        if (s.ch.get i).accumulator.toInt - (s.ch.get i).decrement.toNat < 0 then
          (t.ch.get i).accumulator.toInt =
            (s.ch.get i).accumulator.toInt - (s.ch.get i).decrement.toNat + 4194304 ∧
          t.out.get i = !(s.out.get i)
        else
          (t.ch.get i).accumulator.toInt = (s.ch.get i).accumulator.toInt - (s.ch.get i).decrement.toNat ∧
          t.out.get i = s.out.get i) ∧
      (∀ i, (s.ch.get i).active = false → t.ch.get i = s.ch.get i ∧ t.out.get i = s.out.get i) ∧
      t.seq = s.seq ∧ SameScore s t ∧ t.fault = none

/-- R88: the toggle count, the accumulator and the line of a channel `n` fast ticks after it started, and its first
toggle. -/
def Obligations.ToggleScheduleOfAStartedChannel : Prop :=
  ∀ (s : State) (i : Fin 4) (d : Nat), (s.ch.get i).active = true → (s.ch.get i).accumulator.toInt = Config.RESTART →
    (s.ch.get i).decrement.toNat = d → d ≤ Config.RESTART →
    (∀ n, togglesIn i s n = toggleLaw d n ∧
      ((fastTick^[n] s).ch.get i).accumulator.toInt = (Config.RESTART : Int) * (1 + toggleLaw d n) - n * d ∧
      (fastTick^[n] s).out.get i = ((s.out.get i) ^^ decide (toggleLaw d n % 2 = 1))) ∧
    (0 < d → togglesIn i s (Config.RESTART / d) = 0 ∧ togglesIn i s (Config.RESTART / d + 1) = 1) ∧
    (d = 0 → ∀ n, togglesIn i s n = 0)

/-- R89: the long-run toggle rate of a started channel is `FAST_TICK_RATE * d / RESTART`, twice the frequency of
its square wave. -/
def Obligations.ToggleRateIsProportionalToTheDecrement : Prop :=
  ∀ (s : State) (i : Fin 4) (d : Nat), (s.ch.get i).active = true → (s.ch.get i).accumulator.toInt = Config.RESTART →
    (s.ch.get i).decrement.toNat = d → d ≤ Config.RESTART →
    Filter.Tendsto (fun n : ℕ => Config.fastTickRate * (togglesIn i s n : ℚ) / (n : ℚ)) Filter.atTop
      (nhds (2 * squareWaveFrequency d))

/-- R81, R82: the pitch lookup, with its two checks in order, and the range of its result. -/
def Obligations.PitchLookupFollowsTheTable : Prop :=
  ∀ p : Byte,
    (12 ≤ semitoneClass p → noteDecrement p = .error (.semitoneOutOfRange p)) ∧
    (semitoneClass p < 12 → 10 ≤ octaveIndex p → noteDecrement p = .error (.octaveOutOfRange p)) ∧
    (∀ h : semitoneClass p < 12, octaveIndex p < 10 →
      ∃ d, noteDecrement p = .ok d ∧
        d.toNat = Config.baseTable.entry ⟨semitoneClass p, h⟩ / 2 ^ (9 - octaveIndex p) ∧
        d.toNat ≤ Config.baseTable.entry ⟨semitoneClass p, h⟩ ∧ d.toNat ≤ 4194304)

/-- R83: within an octave the decrement does not fall as the semitone class rises; one octave down halves it,
rounding down. -/
def Obligations.PitchLookupIsMonotoneAndHalves : Prop :=
  (∀ (o c c' : BitVec 4) (d d' : Word), c.toNat ≤ c'.toNat →
    noteDecrement (o ++ c : BitVec (4 + 4)) = .ok d → noteDecrement (o ++ c' : BitVec (4 + 4)) = .ok d' →
    d.toNat ≤ d'.toNat) ∧
  (∀ o c : BitVec 4, o.toNat ≤ 8 → c.toNat < 12 →
    ∃ d d', noteDecrement (o ++ c : BitVec (4 + 4)) = .ok d ∧
      noteDecrement ((o + 1) ++ c : BitVec (4 + 4)) = .ok d' ∧ d.toNat = d'.toNat / 2)

/-! The agents outside a burst. -/

/-- R67: a slow tick in `Waiting` counts the wait down by one and starts the next burst at 0; in `Stopped` it does
nothing. -/
def Obligations.SlowTickCountsTheWaitDown : Prop :=
  ∀ s : State, s.fault = none → s.seq.state ≠ .executingCommands → s.nextEvent = .slowTick →
    ∃ t, step s = .next t ∧
      (s.seq.state = .waiting → 1 ≤ s.seq.remainingWaitTicks →
        t.seq = { s.seq with
          remainingWaitTicks := s.seq.remainingWaitTicks - 1
          state := if s.seq.remainingWaitTicks = 1 then .executingCommands else .waiting }) ∧
      (s.seq.state = .stopped → t.seq = s.seq) ∧
      (∀ i, t.ch.get i = s.ch.get i) ∧ t.out = s.out ∧ SameScore s t ∧ t.fault = none

/-- R68: from a wait of `v`, whatever fast ticks interleave, fewer than `v` slow ticks leave the machine waiting with
the rest of the wait, and the `v`-th starts the next burst. -/
def Obligations.AWaitLastsExactlyItsTicks : Prop :=
  ∀ (s : State) (ticks rest : List Event), s.fault = none → s.seq.state = .waiting → (∀ e ∈ ticks, IsTick e) →
    (s.arrivals = ticks ++ rest → ticks.count .slowTick < s.seq.remainingWaitTicks →
      ∃ t, runSteps ticks.length s = .next t ∧
        t.seq = { s.seq with remainingWaitTicks := s.seq.remainingWaitTicks - ticks.count .slowTick } ∧
        t.arrivals = rest ∧ t.fault = none) ∧
    (s.arrivals = ticks ++ .slowTick :: rest → ticks.count .slowTick + 1 = s.seq.remainingWaitTicks →
      ∃ t, runSteps (ticks.length + 1) s = .next t ∧
        t.seq = { s.seq with remainingWaitTicks := 0, state := .executingCommands } ∧
        t.arrivals = rest ∧ t.fault = none)

/-- R61, R68, R117: with the tick ratio as a premise on the steps, a wait of `v` has `(v - 1) * TICK_RATIO` fast ticks
between its first slow tick and its `v`-th, give or take those held by a burst; and exactly so many where no burst
before the wait has any to deliver, since none runs in it. R61 gives the ratio and the words "give or take those held
by a burst", but no form for that allowance: its form here, `held j` for each interval in `RatioSchedule` and 0 where
no burst stands before in `HeldByBursts`, is the model's choice (DESIGN CHOICE, log entry 3). -/
def Obligations.AWaitSpansItsRatioOfFastTicks : Prop :=
  ∀ (held : Nat → Nat) (s : State) (between rest : List Event), s.fault = none → s.seq.state = .waiting →
    (∀ e ∈ between, IsTick e) → s.arrivals = .slowTick :: (between ++ .slowTick :: rest) →
    between.count .slowTick + 2 = s.seq.remainingWaitTicks →
    RatioSchedule held (agentSteps (between.length + 2) s) →
    ∃ t, runSteps (between.length + 2) s = .next t ∧ t.seq.state = .executingCommands ∧ t.arrivals = rest ∧
      between.count .fastTick ≤ (s.seq.remainingWaitTicks - 1) * Config.tickRatio +
        ((List.range (s.seq.remainingWaitTicks - 1)).map held).sum ∧
      (s.seq.remainingWaitTicks - 1) * Config.tickRatio ≤ between.count .fastTick +
        ((List.range (s.seq.remainingWaitTicks - 1)).map held).sum ∧
      (HeldByBursts held (agentSteps (between.length + 2) s) →
        between.count .fastTick = (s.seq.remainingWaitTicks - 1) * Config.tickRatio)

/-- R63, R111: `Play` of a score that fits loads it, stops what was playing and starts a burst at offset 0 without
a baseline; lines, decrements, accumulators and the wait fields stay. -/
def Obligations.PlayLoadsAndStartsTheFirstBurst : Prop :=
  ∀ (s : State) (bytes : List Byte), s.fault = none → s.seq.state ≠ .executingCommands →
    s.nextEvent = .play bytes → bytes.length ≤ Config.scoreCapacity →
    ∃ t, step s = .next t ∧ t.score.len = bytes.length ∧ (∀ a, t.score.read a = bytes[a]?) ∧
      t.seq = { s.seq with state := .executingCommands, cursor := 0, baselineValid := false } ∧
      (∀ i, (t.ch.get i).decrement = (s.ch.get i).decrement ∧
        (t.ch.get i).accumulator = (s.ch.get i).accumulator ∧
        (t.ch.get i).active = (decide (s.seq.state = .stopped) && (s.ch.get i).active)) ∧
      (s.Inv → ∀ i, (t.ch.get i).active = false) ∧
      t.out = s.out ∧ t.fault = none

/-- R98: `Play` of a score beyond the capacity raises `ScoreTooLarge` with the length, and writes nothing else. -/
def Obligations.PlayOfTooLargeAScoreFaults : Prop :=
  ∀ (s : State) (bytes : List Byte), s.fault = none → s.seq.state ≠ .executingCommands →
    s.nextEvent = .play bytes → Config.scoreCapacity < bytes.length →
    ∃ t, step s = .next t ∧ t.fault = some (.scoreTooLarge bytes.length) ∧
      t.ch = s.ch ∧ t.out = s.out ∧ t.seq = s.seq ∧ t.score = s.score

/-- R64, R65: `Stop()` deactivates every channel and enters `Stopped`; in `Stopped` it changes no state. -/
def Obligations.StopCallStopsAndIsIdempotent : Prop :=
  ∀ s : State, s.fault = none → s.seq.state ≠ .executingCommands → s.nextEvent = .stop →
    ∃ t, step s = .next t ∧ (∀ i, t.ch.get i = { s.ch.get i with active := false }) ∧
      t.seq = { s.seq with state := .stopped } ∧ t.out = s.out ∧ SameScore s t ∧ t.fault = none ∧
      (s.Inv → s.seq.state = .stopped → t.ch = s.ch ∧ t.seq = s.seq)

/-- R66: the read of `running` returns `seq.state != Stopped` and changes no state. -/
def Obligations.ReadingRunningChangesNothing : Prop :=
  ∀ s : State, s.fault = none → s.seq.state ≠ .executingCommands → s.nextEvent = .readRunning →
    ((readRunning s).1 = true ↔ s.seq.state ≠ .stopped) ∧
    ∃ t, step s = .next t ∧ t.ch = s.ch ∧ t.out = s.out ∧ t.seq = s.seq ∧ SameScore s t ∧ t.fault = none

/-- R72: in a final state the ticks still have steps, but those steps change nothing. -/
def Obligations.FinalStatesStayUnderTicks : Prop :=
  ∀ s : State, s.Inv → s.Final → IsTick s.nextEvent →
    ∃ t, step s = .next t ∧ t.ch = s.ch ∧ t.out = s.out ∧ t.seq = s.seq ∧ SameScore s t ∧ t.Final
end

