-- ==== Sys2Proof/Laws/Bits.lean ====
section
/-! SUPPORT. The small facts of the bit-field helpers. -/

namespace Sys2Proof.Machine

/-- A mask selects at most the channels there are. -/
theorem popcount_le_four : ∀ mask : BitVec 4, popcount mask ≤ 4 := by decide

/-- A selected channel's pitch byte is one of the `popcount(mask)` that follow. -/
theorem rank_lt_popcount : ∀ (mask : BitVec 4) (i : Fin 4), selects mask i = true → rank mask i < popcount mask := by
  decide

/-- Pitch bytes stand in ascending channel order. -/
theorem rank_strictly_rises :
    ∀ (mask : BitVec 4) (i j : Fin 4), i < j → selects mask i = true → rank mask i < rank mask j := by
  decide

/-- A byte is its two nibbles. -/
theorem nibbles_append : ∀ b : Byte, (highNibble b ++ lowNibble b : BitVec (4 + 4)) = b := by decide

/-- The high nibble of a byte put together from two nibbles. -/
@[simp] theorem highNibble_append (h l : BitVec 4) : highNibble (h ++ l : BitVec (4 + 4)) = h := by
  revert h l; decide

/-- The low nibble of a byte put together from two nibbles. -/
@[simp] theorem lowNibble_append (h l : BitVec 4) : lowNibble (h ++ l : BitVec (4 + 4)) = l := by
  revert h l; decide

end Sys2Proof.Machine
end

