-- ==== Sys2Proof/Laws/State.lean ====
section
/-! SUPPORT. What each one-field update of the state leaves in each field. -/

namespace Sys2Proof.Machine

section
variable (v : Four Channel) (s : State)
@[simp] theorem State.setCh_ch : (s.setCh v).ch = v := rfl
@[simp] theorem State.setCh_out : (s.setCh v).out = s.out := rfl
@[simp] theorem State.setCh_state : (s.setCh v).seq.state = s.seq.state := rfl
@[simp] theorem State.setCh_cursor : (s.setCh v).seq.cursor = s.seq.cursor := rfl
@[simp] theorem State.setCh_remaining : (s.setCh v).seq.remainingWaitTicks = s.seq.remainingWaitTicks := rfl
@[simp] theorem State.setCh_baseline : (s.setCh v).seq.waitBaseline = s.seq.waitBaseline := rfl
@[simp] theorem State.setCh_valid : (s.setCh v).seq.baselineValid = s.seq.baselineValid := rfl
@[simp] theorem State.setCh_score : (s.setCh v).score = s.score := rfl
@[simp] theorem State.setCh_fault : (s.setCh v).fault = s.fault := rfl
@[simp] theorem State.setCh_arrivals : (s.setCh v).arrivals = s.arrivals := rfl
@[simp] theorem State.setCh_draws : (s.setCh v).draws = s.draws := rfl
end

section
variable (v : Four Bool) (s : State)
@[simp] theorem State.setOut_ch : (s.setOut v).ch = s.ch := rfl
@[simp] theorem State.setOut_out : (s.setOut v).out = v := rfl
@[simp] theorem State.setOut_state : (s.setOut v).seq.state = s.seq.state := rfl
@[simp] theorem State.setOut_cursor : (s.setOut v).seq.cursor = s.seq.cursor := rfl
@[simp] theorem State.setOut_remaining : (s.setOut v).seq.remainingWaitTicks = s.seq.remainingWaitTicks := rfl
@[simp] theorem State.setOut_baseline : (s.setOut v).seq.waitBaseline = s.seq.waitBaseline := rfl
@[simp] theorem State.setOut_valid : (s.setOut v).seq.baselineValid = s.seq.baselineValid := rfl
@[simp] theorem State.setOut_score : (s.setOut v).score = s.score := rfl
@[simp] theorem State.setOut_fault : (s.setOut v).fault = s.fault := rfl
@[simp] theorem State.setOut_arrivals : (s.setOut v).arrivals = s.arrivals := rfl
@[simp] theorem State.setOut_draws : (s.setOut v).draws = s.draws := rfl
end

section
variable (v : SeqState) (s : State)
@[simp] theorem State.setSeqState_ch : (s.setSeqState v).ch = s.ch := rfl
@[simp] theorem State.setSeqState_out : (s.setSeqState v).out = s.out := rfl
@[simp] theorem State.setSeqState_state : (s.setSeqState v).seq.state = v := rfl
@[simp] theorem State.setSeqState_cursor : (s.setSeqState v).seq.cursor = s.seq.cursor := rfl
@[simp] theorem State.setSeqState_remaining : (s.setSeqState v).seq.remainingWaitTicks = s.seq.remainingWaitTicks := rfl
@[simp] theorem State.setSeqState_baseline : (s.setSeqState v).seq.waitBaseline = s.seq.waitBaseline := rfl
@[simp] theorem State.setSeqState_valid : (s.setSeqState v).seq.baselineValid = s.seq.baselineValid := rfl
@[simp] theorem State.setSeqState_score : (s.setSeqState v).score = s.score := rfl
@[simp] theorem State.setSeqState_fault : (s.setSeqState v).fault = s.fault := rfl
@[simp] theorem State.setSeqState_arrivals : (s.setSeqState v).arrivals = s.arrivals := rfl
@[simp] theorem State.setSeqState_draws : (s.setSeqState v).draws = s.draws := rfl
end

section
variable (v : Nat) (s : State)
@[simp] theorem State.setCursor_ch : (s.setCursor v).ch = s.ch := rfl
@[simp] theorem State.setCursor_out : (s.setCursor v).out = s.out := rfl
@[simp] theorem State.setCursor_state : (s.setCursor v).seq.state = s.seq.state := rfl
@[simp] theorem State.setCursor_cursor : (s.setCursor v).seq.cursor = v := rfl
@[simp] theorem State.setCursor_remaining : (s.setCursor v).seq.remainingWaitTicks = s.seq.remainingWaitTicks := rfl
@[simp] theorem State.setCursor_baseline : (s.setCursor v).seq.waitBaseline = s.seq.waitBaseline := rfl
@[simp] theorem State.setCursor_valid : (s.setCursor v).seq.baselineValid = s.seq.baselineValid := rfl
@[simp] theorem State.setCursor_score : (s.setCursor v).score = s.score := rfl
@[simp] theorem State.setCursor_fault : (s.setCursor v).fault = s.fault := rfl
@[simp] theorem State.setCursor_arrivals : (s.setCursor v).arrivals = s.arrivals := rfl
@[simp] theorem State.setCursor_draws : (s.setCursor v).draws = s.draws := rfl
end

section
variable (v : Nat) (s : State)
@[simp] theorem State.setRemaining_ch : (s.setRemaining v).ch = s.ch := rfl
@[simp] theorem State.setRemaining_out : (s.setRemaining v).out = s.out := rfl
@[simp] theorem State.setRemaining_state : (s.setRemaining v).seq.state = s.seq.state := rfl
@[simp] theorem State.setRemaining_cursor : (s.setRemaining v).seq.cursor = s.seq.cursor := rfl
@[simp] theorem State.setRemaining_remaining : (s.setRemaining v).seq.remainingWaitTicks = v := rfl
@[simp] theorem State.setRemaining_baseline : (s.setRemaining v).seq.waitBaseline = s.seq.waitBaseline := rfl
@[simp] theorem State.setRemaining_valid : (s.setRemaining v).seq.baselineValid = s.seq.baselineValid := rfl
@[simp] theorem State.setRemaining_score : (s.setRemaining v).score = s.score := rfl
@[simp] theorem State.setRemaining_fault : (s.setRemaining v).fault = s.fault := rfl
@[simp] theorem State.setRemaining_arrivals : (s.setRemaining v).arrivals = s.arrivals := rfl
@[simp] theorem State.setRemaining_draws : (s.setRemaining v).draws = s.draws := rfl
end

section
variable (v : Nat) (s : State)
@[simp] theorem State.setBaseline_ch : (s.setBaseline v).ch = s.ch := rfl
@[simp] theorem State.setBaseline_out : (s.setBaseline v).out = s.out := rfl
@[simp] theorem State.setBaseline_state : (s.setBaseline v).seq.state = s.seq.state := rfl
@[simp] theorem State.setBaseline_cursor : (s.setBaseline v).seq.cursor = s.seq.cursor := rfl
@[simp] theorem State.setBaseline_remaining : (s.setBaseline v).seq.remainingWaitTicks = s.seq.remainingWaitTicks := rfl
@[simp] theorem State.setBaseline_baseline : (s.setBaseline v).seq.waitBaseline = v := rfl
@[simp] theorem State.setBaseline_valid : (s.setBaseline v).seq.baselineValid = s.seq.baselineValid := rfl
@[simp] theorem State.setBaseline_score : (s.setBaseline v).score = s.score := rfl
@[simp] theorem State.setBaseline_fault : (s.setBaseline v).fault = s.fault := rfl
@[simp] theorem State.setBaseline_arrivals : (s.setBaseline v).arrivals = s.arrivals := rfl
@[simp] theorem State.setBaseline_draws : (s.setBaseline v).draws = s.draws := rfl
end

section
variable (v : Bool) (s : State)
@[simp] theorem State.setBaselineValid_ch : (s.setBaselineValid v).ch = s.ch := rfl
@[simp] theorem State.setBaselineValid_out : (s.setBaselineValid v).out = s.out := rfl
@[simp] theorem State.setBaselineValid_state : (s.setBaselineValid v).seq.state = s.seq.state := rfl
@[simp] theorem State.setBaselineValid_cursor : (s.setBaselineValid v).seq.cursor = s.seq.cursor := rfl
@[simp] theorem State.setBaselineValid_remaining : (s.setBaselineValid v).seq.remainingWaitTicks = s.seq.remainingWaitTicks := rfl
@[simp] theorem State.setBaselineValid_baseline : (s.setBaselineValid v).seq.waitBaseline = s.seq.waitBaseline := rfl
@[simp] theorem State.setBaselineValid_valid : (s.setBaselineValid v).seq.baselineValid = v := rfl
@[simp] theorem State.setBaselineValid_score : (s.setBaselineValid v).score = s.score := rfl
@[simp] theorem State.setBaselineValid_fault : (s.setBaselineValid v).fault = s.fault := rfl
@[simp] theorem State.setBaselineValid_arrivals : (s.setBaselineValid v).arrivals = s.arrivals := rfl
@[simp] theorem State.setBaselineValid_draws : (s.setBaselineValid v).draws = s.draws := rfl
end

section
variable (v : Memory) (s : State)
@[simp] theorem State.setScore_ch : (s.setScore v).ch = s.ch := rfl
@[simp] theorem State.setScore_out : (s.setScore v).out = s.out := rfl
@[simp] theorem State.setScore_state : (s.setScore v).seq.state = s.seq.state := rfl
@[simp] theorem State.setScore_cursor : (s.setScore v).seq.cursor = s.seq.cursor := rfl
@[simp] theorem State.setScore_remaining : (s.setScore v).seq.remainingWaitTicks = s.seq.remainingWaitTicks := rfl
@[simp] theorem State.setScore_baseline : (s.setScore v).seq.waitBaseline = s.seq.waitBaseline := rfl
@[simp] theorem State.setScore_valid : (s.setScore v).seq.baselineValid = s.seq.baselineValid := rfl
@[simp] theorem State.setScore_score : (s.setScore v).score = v := rfl
@[simp] theorem State.setScore_fault : (s.setScore v).fault = s.fault := rfl
@[simp] theorem State.setScore_arrivals : (s.setScore v).arrivals = s.arrivals := rfl
@[simp] theorem State.setScore_draws : (s.setScore v).draws = s.draws := rfl
end

section
variable (v : Option Fault) (s : State)
@[simp] theorem State.setFault_ch : (s.setFault v).ch = s.ch := rfl
@[simp] theorem State.setFault_out : (s.setFault v).out = s.out := rfl
@[simp] theorem State.setFault_state : (s.setFault v).seq.state = s.seq.state := rfl
@[simp] theorem State.setFault_cursor : (s.setFault v).seq.cursor = s.seq.cursor := rfl
@[simp] theorem State.setFault_remaining : (s.setFault v).seq.remainingWaitTicks = s.seq.remainingWaitTicks := rfl
@[simp] theorem State.setFault_baseline : (s.setFault v).seq.waitBaseline = s.seq.waitBaseline := rfl
@[simp] theorem State.setFault_valid : (s.setFault v).seq.baselineValid = s.seq.baselineValid := rfl
@[simp] theorem State.setFault_score : (s.setFault v).score = s.score := rfl
@[simp] theorem State.setFault_fault : (s.setFault v).fault = v := rfl
@[simp] theorem State.setFault_arrivals : (s.setFault v).arrivals = s.arrivals := rfl
@[simp] theorem State.setFault_draws : (s.setFault v).draws = s.draws := rfl
end

section
variable (v : List Event) (s : State)
@[simp] theorem State.setArrivals_ch : (s.setArrivals v).ch = s.ch := rfl
@[simp] theorem State.setArrivals_out : (s.setArrivals v).out = s.out := rfl
@[simp] theorem State.setArrivals_state : (s.setArrivals v).seq.state = s.seq.state := rfl
@[simp] theorem State.setArrivals_cursor : (s.setArrivals v).seq.cursor = s.seq.cursor := rfl
@[simp] theorem State.setArrivals_remaining : (s.setArrivals v).seq.remainingWaitTicks = s.seq.remainingWaitTicks := rfl
@[simp] theorem State.setArrivals_baseline : (s.setArrivals v).seq.waitBaseline = s.seq.waitBaseline := rfl
@[simp] theorem State.setArrivals_valid : (s.setArrivals v).seq.baselineValid = s.seq.baselineValid := rfl
@[simp] theorem State.setArrivals_score : (s.setArrivals v).score = s.score := rfl
@[simp] theorem State.setArrivals_fault : (s.setArrivals v).fault = s.fault := rfl
@[simp] theorem State.setArrivals_arrivals : (s.setArrivals v).arrivals = v := rfl
@[simp] theorem State.setArrivals_draws : (s.setArrivals v).draws = s.draws := rfl
end

section
variable (v : Nat) (s : State)
@[simp] theorem State.setDraws_ch : (s.setDraws v).ch = s.ch := rfl
@[simp] theorem State.setDraws_out : (s.setDraws v).out = s.out := rfl
@[simp] theorem State.setDraws_state : (s.setDraws v).seq.state = s.seq.state := rfl
@[simp] theorem State.setDraws_cursor : (s.setDraws v).seq.cursor = s.seq.cursor := rfl
@[simp] theorem State.setDraws_remaining : (s.setDraws v).seq.remainingWaitTicks = s.seq.remainingWaitTicks := rfl
@[simp] theorem State.setDraws_baseline : (s.setDraws v).seq.waitBaseline = s.seq.waitBaseline := rfl
@[simp] theorem State.setDraws_valid : (s.setDraws v).seq.baselineValid = s.seq.baselineValid := rfl
@[simp] theorem State.setDraws_score : (s.setDraws v).score = s.score := rfl
@[simp] theorem State.setDraws_fault : (s.setDraws v).fault = s.fault := rfl
@[simp] theorem State.setDraws_arrivals : (s.setDraws v).arrivals = s.arrivals := rfl
@[simp] theorem State.setDraws_draws : (s.setDraws v).draws = v := rfl
end

end Sys2Proof.Machine
end

