-- ==== Sys2Proof/Laws/Ops.lean ====
section
/-! SUPPORT. What each shared operation does, said once: the channel banks, the score space and its canonical form,
the fetch, the pitch lookup, the Stop transition, the entry into a wait and the raising of a fault. -/

namespace Sys2Proof.Machine

/-! The banks. -/

@[simp] theorem Four.get_ofFn {α : Type} (f : Fin 4 → α) (i : Fin 4) : (Four.ofFn f).get i = f i := by
  fin_cases i <;> rfl

/-- Two banks with the same members are one. -/
theorem Four.ext_get {α : Type} {v w : Four α} (h : ∀ i, v.get i = w.get i) : v = w := by
  obtain ⟨_, _, _, _⟩ := v
  obtain ⟨_, _, _, _⟩ := w
  have h0 := h 0; have h1 := h 1; have h2 := h 2; have h3 := h 3
  simp only [Four.get] at h0 h1 h2 h3
  subst h0 h1 h2 h3; rfl

theorem mapSelected_get (mask : BitVec 4) (f : Fin 4 → Channel → Channel) (ch : Four Channel) (i : Fin 4) :
    (mapSelected mask f ch).get i = if selects mask i then f i (ch.get i) else ch.get i := by
  simp [mapSelected]

@[simp] theorem Channel.deactivate_active (c : Channel) : c.deactivate.active = false := rfl
@[simp] theorem Channel.deactivate_decrement (c : Channel) : c.deactivate.decrement = c.decrement := rfl
@[simp] theorem Channel.deactivate_accumulator (c : Channel) : c.deactivate.accumulator = c.accumulator := rfl

/-! The score space. -/

theorem Memory.lookup_below {len lo i : Nat} {cells : List Host.Cell} (h : Memory.cellsWf len lo cells = true)
    (hi : i < lo) : Memory.lookup cells i = Memory.unlisted := by
  induction cells generalizing lo with
  | nil => rfl
  | cons c cells ih =>
    obtain ⟨a, b⟩ := c
    simp only [Memory.cellsWf, Bool.and_eq_true, decide_eq_true_eq] at h
    simp only [Memory.lookup]
    rw [if_neg (by omega), ih h.2 (by omega)]

theorem Memory.cellsWf_mono {len lo lo' : Nat} {cells : List Host.Cell} (h : Memory.cellsWf len lo cells = true)
    (hlo : lo' ≤ lo) : Memory.cellsWf len lo' cells = true := by
  cases cells with
  | nil => rfl
  | cons c cells =>
    obtain ⟨a, b⟩ := c
    simp only [Memory.cellsWf, Bool.and_eq_true, decide_eq_true_eq] at h ⊢
    exact ⟨⟨⟨by omega, h.1.1.2⟩, h.1.2⟩, h.2⟩

theorem Memory.cellsFrom_wf (bs : List Byte) (a : Nat) :
    Memory.cellsWf (a + bs.length) a (Memory.cellsFrom a bs) = true := by
  induction bs generalizing a with
  | nil => rfl
  | cons b bs ih =>
    have h : Memory.cellsWf (a + (bs.length + 1)) (a + 1) (Memory.cellsFrom (a + 1) bs) = true := by
      have := ih (a + 1)
      rwa [Nat.add_right_comm, Nat.add_assoc] at this
    simp only [Memory.cellsFrom, List.length_cons]
    split
    · exact Memory.cellsWf_mono h (Nat.le_succ a)
    · simp only [Memory.cellsWf, Bool.and_eq_true, decide_eq_true_eq]
      exact ⟨⟨⟨Nat.le_refl a, by omega⟩, by simpa using ‹_›⟩, h⟩

/-- The load of a score, the one operation that writes the score space, gives the canonical form. -/
theorem Memory.ofBytes_wf (bs : List Byte) : (Memory.ofBytes bs).wf = true := by
  simpa [Memory.wf, Memory.ofBytes] using Memory.cellsFrom_wf bs 0

@[simp] theorem Memory.ofBytes_len (bs : List Byte) : (Memory.ofBytes bs).len = bs.length := rfl

/-- The power-on states' score space has the canonical form. -/
theorem State.reset_score_wf : State.reset.score.wf = true := rfl

theorem Memory.read_eq_none {m : Memory} {i : Nat} : m.read i = none ↔ m.len ≤ i := by
  simp [Memory.read]

theorem Memory.lookup_cellsFrom (bs : List Byte) (a i : Nat) :
    Memory.lookup (Memory.cellsFrom a bs) (a + i) = bs.getD i Memory.unlisted := by
  induction bs generalizing a i with
  | nil => simp [Memory.cellsFrom, Memory.lookup]
  | cons b bs ih =>
    have hwf := Memory.cellsFrom_wf bs (a + 1)
    cases i with
    | zero =>
      simp only [Memory.cellsFrom]
      split
      · rw [Memory.lookup_below hwf (by omega)]; simp [*]
      · simp [Memory.lookup]
    | succ i =>
      simp only [Memory.cellsFrom]
      have := ih (a + 1) i
      rw [Nat.add_assoc, Nat.add_comm 1 i] at this
      split
      · simpa using this
      · simp only [Memory.lookup]; rw [if_neg (by omega)]; simpa using this

/-! The fetch window. -/

@[simp] theorem Memory.window_zero (m : Memory) (c : Nat) : m.window c 0 = [] := rfl

theorem Memory.window_length (m : Memory) (c n : Nat) : (m.window c n).length = min n (m.len - c) := by
  induction n generalizing c with
  | zero => simp
  | succ n ih =>
    simp only [Memory.window, Memory.read]
    split <;> rename_i h
    · split at h
      · simp only [List.length_cons, ih]; omega
      · cases h
    · split at h
      · cases h
      · simp; omega

/-- Byte `k` of the window is the byte at offset `c + k`. -/
theorem Memory.window_getElem? (m : Memory) (c n k : Nat) (hk : k < n) : (m.window c n)[k]? = m.read (c + k) := by
  induction n generalizing c k with
  | zero => omega
  | succ n ih =>
    simp only [Memory.window]
    split
    · cases k with
      | zero => simp [*]
      | succ k =>
        simp only [List.getElem?_cons_succ]
        rw [ih (c + 1) k (by omega), Nat.add_assoc, Nat.add_comm 1 k]
    · rename_i h
      have : m.len ≤ c := Memory.read_eq_none.mp h
      simp only [List.getElem?_nil]
      exact (Memory.read_eq_none.mpr (by omega)).symm

/-! The pitch lookup. -/

/-- Every decrement that the lookup gives is at most `RESTART` (R15, R82). -/
theorem noteDecrement_le {p : Byte} {d : Word} (h : noteDecrement p = .ok d) : d.toNat ≤ Config.RESTART := by
  unfold noteDecrement at h
  split at h
  · rename_i hs
    split at h
    · cases h
      have h1 := Config.baseTable.bound ⟨semitoneClass p, hs⟩
      have h2 := Nat.shiftRight_le (Config.baseTable.entry ⟨semitoneClass p, hs⟩) (octaveShift (octaveIndex p))
      simp only [BitVec.toNat_ofNat]
      exact (Nat.mod_le _ _).trans (h2.trans h1)
    · cases h
  · cases h

theorem noteDecrements_length {ps : List Byte} {ds : List Word} (h : noteDecrements ps = .ok ds) :
    ds.length = ps.length := by
  induction ps generalizing ds with
  | nil => cases h; rfl
  | cons p ps ih =>
    simp only [noteDecrements] at h
    split at h
    · cases h
    · split at h
      · cases h
      · rename_i h2; cases h; simp [ih h2]

/-- Decrement `k` is that of pitch byte `k`. -/
theorem noteDecrements_getElem? {ps : List Byte} {ds : List Word} (h : noteDecrements ps = .ok ds) {k : Nat} {p : Byte}
    (hp : ps[k]? = some p) : ∃ d, ds[k]? = some d ∧ noteDecrement p = .ok d := by
  induction ps generalizing ds k with
  | nil => simp at hp
  | cons q ps ih =>
    simp only [noteDecrements] at h
    split at h
    · cases h
    · rename_i d hd
      split at h
      · cases h
      · rename_i ds' h2
        cases h
        cases k with
        | zero => simp only [List.getElem?_cons_zero, Option.some.injEq] at hp; subst hp; exact ⟨d, by simp, hd⟩
        | succ k => simpa using ih h2 (by simpa using hp)

/-! Raising a fault: the record is written, and nothing else. -/

section
variable (f : Fault) (s : State)
@[simp] theorem raiseFault_ch : (raiseFault f s).ch = s.ch := rfl
@[simp] theorem raiseFault_out : (raiseFault f s).out = s.out := rfl
@[simp] theorem raiseFault_seq : (raiseFault f s).seq = s.seq := rfl
@[simp] theorem raiseFault_score : (raiseFault f s).score = s.score := rfl
@[simp] theorem raiseFault_fault : (raiseFault f s).fault = some f := rfl
@[simp] theorem raiseFault_arrivals : (raiseFault f s).arrivals = s.arrivals := rfl
@[simp] theorem raiseFault_draws : (raiseFault f s).draws = s.draws := rfl
end

/-! The Stop transition: every channel inactive, `Stopped`, and nothing else. -/

section
variable (s : State)
@[simp] theorem stopTransition_ch (i : Fin 4) : (stopTransition s).ch.get i = (s.ch.get i).deactivate := by
  simp [stopTransition]
@[simp] theorem stopTransition_out : (stopTransition s).out = s.out := rfl
@[simp] theorem stopTransition_state : (stopTransition s).seq.state = .stopped := rfl
@[simp] theorem stopTransition_cursor : (stopTransition s).seq.cursor = s.seq.cursor := rfl
@[simp] theorem stopTransition_remaining : (stopTransition s).seq.remainingWaitTicks = s.seq.remainingWaitTicks := rfl
@[simp] theorem stopTransition_baseline : (stopTransition s).seq.waitBaseline = s.seq.waitBaseline := rfl
@[simp] theorem stopTransition_valid : (stopTransition s).seq.baselineValid = s.seq.baselineValid := rfl
@[simp] theorem stopTransition_score : (stopTransition s).score = s.score := rfl
@[simp] theorem stopTransition_fault : (stopTransition s).fault = s.fault := rfl
@[simp] theorem stopTransition_arrivals : (stopTransition s).arrivals = s.arrivals := rfl
@[simp] theorem stopTransition_draws : (stopTransition s).draws = s.draws := rfl
end

/-! The entry into a wait: the wait, the cursor and the state, and nothing else. -/

section
variable (ticks len : Nat) (s : State)
@[simp] theorem enterWaiting_ch : (enterWaiting ticks len s).ch = s.ch := rfl
@[simp] theorem enterWaiting_out : (enterWaiting ticks len s).out = s.out := rfl
@[simp] theorem enterWaiting_state : (enterWaiting ticks len s).seq.state = .waiting := rfl
@[simp] theorem enterWaiting_cursor : (enterWaiting ticks len s).seq.cursor = s.seq.cursor + len := rfl
@[simp] theorem enterWaiting_remaining : (enterWaiting ticks len s).seq.remainingWaitTicks = ticks := rfl
@[simp] theorem enterWaiting_baseline : (enterWaiting ticks len s).seq.waitBaseline = s.seq.waitBaseline := rfl
@[simp] theorem enterWaiting_valid : (enterWaiting ticks len s).seq.baselineValid = s.seq.baselineValid := rfl
@[simp] theorem enterWaiting_score : (enterWaiting ticks len s).score = s.score := rfl
@[simp] theorem enterWaiting_fault : (enterWaiting ticks len s).fault = s.fault := rfl
@[simp] theorem enterWaiting_arrivals : (enterWaiting ticks len s).arrivals = s.arrivals := rfl
@[simp] theorem enterWaiting_draws : (enterWaiting ticks len s).draws = s.draws := rfl
end

end Sys2Proof.Machine
end

