-- ==== Sys2Proof/Laws/Agents.lean ====
section
/-! SUPPORT. What each agent's step does outside a burst, said once. -/

namespace Sys2Proof.Machine

/-! The fast tick: the channels and the lines, each by itself, and nothing else. -/

section
variable (s : State)
@[simp] theorem fastTick_ch (i : Fin 4) : (fastTick s).ch.get i = (s.ch.get i).advance := by simp [fastTick]
@[simp] theorem fastTick_out (i : Fin 4) :
    (fastTick s).out.get i = ((s.out.get i) ^^ (s.ch.get i).underflows) := by simp [fastTick]
@[simp] theorem fastTick_seq : (fastTick s).seq = s.seq := rfl
@[simp] theorem fastTick_score : (fastTick s).score = s.score := rfl
@[simp] theorem fastTick_fault : (fastTick s).fault = s.fault := rfl
@[simp] theorem fastTick_arrivals : (fastTick s).arrivals = s.arrivals := rfl
@[simp] theorem fastTick_draws : (fastTick s).draws = s.draws := rfl
end

/-- A fast tick never changes a channel's decrement. -/
@[simp] theorem Channel.advance_decrement (c : Channel) : c.advance.decrement = c.decrement := by
  simp only [Channel.advance]; split <;> rfl

/-- A fast tick never starts or stops a channel. -/
@[simp] theorem Channel.advance_active (c : Channel) : c.advance.active = c.active := by
  simp only [Channel.advance]; split <;> rfl

theorem Channel.advance_inactive {c : Channel} (h : c.active = false) : c.advance = c := by
  simp [Channel.advance, h]

theorem Channel.underflows_inactive {c : Channel} (h : c.active = false) : c.underflows = false := by
  simp [Channel.underflows, h]

/-! The slow tick: the wait counter and `seq.state`, and nothing else. -/

section
variable (s : State)
@[simp] theorem slowTick_ch : (slowTick s).ch = s.ch := by simp only [slowTick]; (repeat' split) <;> rfl
@[simp] theorem slowTick_out : (slowTick s).out = s.out := by simp only [slowTick]; (repeat' split) <;> rfl
@[simp] theorem slowTick_cursor : (slowTick s).seq.cursor = s.seq.cursor := by
  simp only [slowTick]; (repeat' split) <;> rfl
@[simp] theorem slowTick_baseline : (slowTick s).seq.waitBaseline = s.seq.waitBaseline := by
  simp only [slowTick]; (repeat' split) <;> rfl
@[simp] theorem slowTick_valid : (slowTick s).seq.baselineValid = s.seq.baselineValid := by
  simp only [slowTick]; (repeat' split) <;> rfl
@[simp] theorem slowTick_score : (slowTick s).score = s.score := by simp only [slowTick]; (repeat' split) <;> rfl
@[simp] theorem slowTick_fault : (slowTick s).fault = s.fault := by simp only [slowTick]; (repeat' split) <;> rfl
@[simp] theorem slowTick_arrivals : (slowTick s).arrivals = s.arrivals := by
  simp only [slowTick]; (repeat' split) <;> rfl
@[simp] theorem slowTick_draws : (slowTick s).draws = s.draws := by simp only [slowTick]; (repeat' split) <;> rfl
end

/-- Everything a slow tick can do. -/
theorem slowTick_cases (s : State) :
    (s.seq.state ≠ .waiting ∧ slowTick s = s) ∨
    (s.seq.state = .waiting ∧ s.seq.remainingWaitTicks ≤ 1 ∧
      slowTick s = (s.setRemaining 0).setSeqState .executingCommands) ∨
    (s.seq.state = .waiting ∧ 1 < s.seq.remainingWaitTicks ∧
      slowTick s = s.setRemaining (s.seq.remainingWaitTicks - 1)) := by
  by_cases h : s.seq.state = .waiting
  · by_cases h1 : s.seq.remainingWaitTicks ≤ 1
    · have h2 : s.seq.remainingWaitTicks - 1 = 0 := by omega
      exact .inr (.inl ⟨h, h1, by simp [slowTick, h, h2]⟩)
    · have h2 : s.seq.remainingWaitTicks - 1 ≠ 0 := by omega
      exact .inr (.inr ⟨h, by omega, by simp [slowTick, h, h2]⟩)
  · exact .inl ⟨h, by simp [slowTick, h]⟩

/-- Everything `Play` can do: fault and write nothing else, or load the score and start a burst. -/
theorem play_cases (bytes : List Byte) (s : State) :
    (Config.scoreCapacity < bytes.length ∧ play bytes s = raiseFault (.scoreTooLarge bytes.length) s) ∨
    (bytes.length ≤ Config.scoreCapacity ∧ (play bytes s).score = Memory.ofBytes bytes ∧
      (play bytes s).seq = ⟨.executingCommands, 0, s.seq.remainingWaitTicks, s.seq.waitBaseline, false⟩ ∧
      (∀ i, (play bytes s).ch.get i = if s.seq.state = .stopped then s.ch.get i else (s.ch.get i).deactivate) ∧
      (play bytes s).out = s.out ∧ (play bytes s).fault = s.fault ∧ (play bytes s).arrivals = s.arrivals ∧
      (play bytes s).draws = s.draws) := by
  by_cases h : Config.scoreCapacity < bytes.length
  · exact .inl ⟨h, by simp [play, h]⟩
  · refine .inr ⟨by omega, ?_⟩
    by_cases hs : s.seq.state = .stopped <;>
      simp [play, h, hs, State.setScore, State.setCursor, State.setBaselineValid, State.setSeqState, stopTransition,
        State.setCh]

/-! The schedule. -/

section
variable (s : State)
@[simp] theorem takeEvent_ch : s.takeEvent.ch = s.ch := by simp only [State.takeEvent]; split <;> rfl
@[simp] theorem takeEvent_out : s.takeEvent.out = s.out := by simp only [State.takeEvent]; split <;> rfl
@[simp] theorem takeEvent_seq : s.takeEvent.seq = s.seq := by simp only [State.takeEvent]; split <;> rfl
@[simp] theorem takeEvent_score : s.takeEvent.score = s.score := by simp only [State.takeEvent]; split <;> rfl
@[simp] theorem takeEvent_fault : s.takeEvent.fault = s.fault := by simp only [State.takeEvent]; split <;> rfl
end

theorem takeEvent_cons {s : State} {e : Event} {es : List Event} (h : s.arrivals = e :: es) :
    s.takeEvent = s.setArrivals es := by
  unfold State.takeEvent; split
  · rename_i h'; rw [h] at h'; cases h'; rfl
  · rename_i h'; rw [h] at h'; cases h'

theorem nextEvent_cons {s : State} {e : Event} {es : List Event} (h : s.arrivals = e :: es) : s.nextEvent = e := by
  unfold State.nextEvent; split
  · rename_i h'; rw [h] at h'; cases h'; rfl
  · rename_i h'; rw [h] at h'; cases h'

end Sys2Proof.Machine
end

