-- ==== Sys2Proof/Laws/PerInstr.lean ====
section
/-! SUPPORT. Facts about every instruction as syntax, one lemma per constructor. -/

namespace Sys2Proof.Laws

/-- The encoding of a well-formed instruction is as long as R51 says of it, and at most five bytes. -/
def EncodeLength.Statement (i : Instr) : Prop :=
  i.wellFormed = true → (encode i).length = i.length ∧ i.length ≤ maxLength

theorem EncodeLength.waitabs (value : BitVec 15) : EncodeLength.Statement (.waitabs value) :=
  fun _ => ⟨rfl, by simp [Instr.length, maxLength]⟩

theorem EncodeLength.stopnote (mask : BitVec 4) : EncodeLength.Statement (.stopnote mask) :=
  fun _ => ⟨rfl, by simp [Instr.length, maxLength]⟩

theorem EncodeLength.playnote (mask : BitVec 4) (pitches : List Byte) :
    EncodeLength.Statement (.playnote mask pitches) := by
  intro h
  have h4 : ∀ m : BitVec 4, 1 + Machine.popcount m ≤ maxLength := by decide
  simp only [Instr.wellFormed, beq_iff_eq] at h
  exact ⟨by simp only [encode, Instr.length, List.length_cons, h]; omega, h4 mask⟩

theorem EncodeLength.restart : EncodeLength.Statement .restart := fun _ => ⟨rfl, by simp [Instr.length, maxLength]⟩

theorem EncodeLength.stop : EncodeLength.Statement .stop := fun _ => ⟨rfl, by simp [Instr.length, maxLength]⟩

theorem EncodeLength.waitrel (delta : BitVec 6) : EncodeLength.Statement (.waitrel delta) :=
  fun _ => ⟨rfl, by simp [Instr.length, maxLength]⟩

end Sys2Proof.Laws
end

