-- ==== Sys2Proof/Laws/Step.lean ====
section
/-! SUPPORT. What a step and each command can do, said once: the inversion lemmas that a proof over all steps starts
from. -/

namespace Sys2Proof.Machine

/-- Everything a step that answers a next state can have done. -/
theorem step_cases {s t : State} (h : step s = .next t) :
    s.fault = none ∧
    ((s.seq.state = .executingCommands ∧ ∃ i, fetchDecode s = .ok i ∧ exec i s = .next t) ∨
     (s.seq.state = .executingCommands ∧ ∃ f, fetchDecode s = .error f ∧ t = raiseFault f s) ∨
     (s.seq.state ≠ .executingCommands ∧ t = applyEvent s.nextEvent s.takeEvent)) := by
  simp only [step] at h
  split at h
  · cases h
  · rename_i hf
    refine ⟨hf, ?_⟩
    split at h
    · rename_i he
      simp only [dispatchStep] at h
      split at h
      · rename_i i hi; exact .inl ⟨he, i, hi, h⟩
      · rename_i f hi; cases h; exact .inr (.inl ⟨he, f, hi, rfl⟩)
    · rename_i he; cases h; exact .inr (.inr ⟨he, rfl⟩)

/-- `runSteps` is the host's run of this machine. -/
theorem runSteps_eq_run (n : Nat) (s : State) : runSteps n s = Host.Core.run core n s := by
  induction n generalizing s with
  | zero => rfl
  | succ n ih =>
    have h : core.step s = step s := rfl
    rw [runSteps]
    simp only [Host.Core.run, h]
    cases step s with
    | next t => exact ih t
    | fault f => rfl
    | refused r => rfl

/-- One more step after `n` that go on. -/
theorem runSteps_succ {n : Nat} {s t : State} (h : runSteps n s = .next t) : runSteps (n + 1) s = step t := by
  induction n generalizing s with
  | zero => cases h; simp only [runSteps]; split <;> simp [*]
  | succ n ih =>
    rw [runSteps] at h ⊢
    split at h
    · exact ih h
    · cases h
    · cases h

/-- Everything `WaitAbsolute` can do. -/
theorem execWaitabs_cases (v : BitVec 15) (s : State) :
    (v.toNat = 0 ∧ execWaitabs v s = .next (raiseFault (.nonPositiveWait s.seq.cursor 0) s)) ∨
    (v.toNat ≠ 0 ∧
      execWaitabs v s = .next (((enterWaiting v.toNat 2 s).setBaseline v.toNat).setBaselineValid true)) := by
  by_cases h : v.toNat = 0
  · exact .inl ⟨h, by simp [execWaitabs, h]⟩
  · exact .inr ⟨h, by simp only [execWaitabs, if_neg h]⟩

/-- Everything `WaitRelative` can do. -/
theorem execWaitrel_cases (d : BitVec 6) (s : State) :
    (s.seq.baselineValid = false ∧ execWaitrel d s = .next (raiseFault (.baselineUnset s.seq.cursor) s)) ∨
    (s.seq.baselineValid = true ∧ relativeWait s d ≤ 0 ∧
      execWaitrel d s = .next (raiseFault (.nonPositiveWait s.seq.cursor (relativeWait s d)) s)) ∨
    (s.seq.baselineValid = true ∧ 0 < relativeWait s d ∧
      execWaitrel d s = .next (enterWaiting (relativeWait s d).toNat 1 s)) := by
  by_cases h : s.seq.baselineValid = false
  · exact .inl ⟨h, by simp [execWaitrel, h]⟩
  · have h' : s.seq.baselineValid = true := by simpa using h
    by_cases h2 : relativeWait s d ≤ 0
    · exact .inr (.inl ⟨h', h2, by simp [execWaitrel, h', h2]⟩)
    · exact .inr (.inr ⟨h', by omega, by simp [execWaitrel, h', h2]⟩)

/-- Everything `PlayNote` can do. -/
theorem execPlaynote_cases (mask : BitVec 4) (ps : List Byte) (s : State) :
    (ps.length ≠ popcount mask ∧ execPlaynote mask ps s = .refused (.illFormedOperands "PLAYNOTE")) ∨
    (ps.length = popcount mask ∧ ∃ f, noteDecrements ps = .error f ∧ execPlaynote mask ps s = .next (raiseFault f s)) ∨
    (ps.length = popcount mask ∧ ∃ ds, noteDecrements ps = .ok ds ∧
      execPlaynote mask ps s =
        .next ((s.setCh (mapSelected mask (fun i _ => startedChannel (ds.getD (rank mask i) 0)) s.ch)).setCursor
          (s.seq.cursor + (1 + popcount mask)))) := by
  by_cases h : ps.length = popcount mask
  · cases hd : noteDecrements ps with
    | error f => exact .inr (.inl ⟨h, f, rfl, by simp [execPlaynote, h, hd]⟩)
    | ok ds => exact .inr (.inr ⟨h, ds, rfl, by simp [execPlaynote, h, hd]⟩)
  · exact .inl ⟨h, by simp [execPlaynote, h]⟩

end Sys2Proof.Machine
end

