-- ==== Sys2Proof/Laws/Schedule.lean ====
section
/-! SUPPORT. The steps of a run as a list of agents, and the tick ratio's premise on one. -/

namespace Sys2Proof.Machine

/-- Any number of fast ticks leave the Sequencer as it was (R87). -/
@[simp] theorem fastTicks_seq (k : Nat) (s : State) : (fastTick^[k] s).seq = s.seq := by
  induction k with
  | zero => rfl
  | succ k ih => rw [Function.iterate_succ_apply', fastTick_seq, ih]

/-- Any number of fast ticks leave the fault record as it was. -/
@[simp] theorem fastTicks_fault (k : Nat) (s : State) : (fastTick^[k] s).fault = s.fault := by
  induction k with
  | zero => rfl
  | succ k ih => rw [Function.iterate_succ_apply', fastTick_fault, ih]

/-- Any number of fast ticks leave the rest of the schedule as it was. -/
@[simp] theorem fastTicks_arrivals (k : Nat) (s : State) : (fastTick^[k] s).arrivals = s.arrivals := by
  induction k with
  | zero => rfl
  | succ k ih => rw [Function.iterate_succ_apply', fastTick_arrivals, ih]

/-- A step of `Dispatch` opens the list with `none`. -/
theorem agentSteps_burst {n : Nat} {s t : State} (he : s.seq.state = .executingCommands) (h : step s = .next t) :
    agentSteps (n + 1) s = none :: agentSteps n t := by
  simp only [agentSteps, h, if_pos he]

/-- A step outside a burst opens the list with its event. -/
theorem agentSteps_outside {n : Nat} {s : State} (hf : s.fault = none) (he : s.seq.state ≠ .executingCommands) :
    agentSteps (n + 1) s = some s.nextEvent :: agentSteps n (outsideStep s) := by
  have h : step s = .next (outsideStep s) := by simp only [step, hf, if_neg he]
  simp only [agentSteps, h, if_neg he]

/-- The steps of a run in two parts. -/
theorem agentSteps_add {n : Nat} {s t : State} (h : runSteps n s = .next t) (m : Nat) :
    agentSteps (n + m) s = agentSteps n s ++ agentSteps m t := by
  induction n generalizing s with
  | zero => cases h; simp [agentSteps]
  | succ n ih =>
    rw [runSteps] at h
    rw [Nat.add_right_comm, agentSteps, agentSteps]
    split at h
    · simp only [ih h, List.cons_append]
    · cases h
    · cases h

/-- Fast ticks outside a burst: each is one step, and they touch channels and lines only. -/
theorem agentSteps_fastTicks {k : Nat} {s : State} {es : List Event} (hf : s.fault = none)
    (he : s.seq.state ≠ .executingCommands) (ha : s.arrivals = List.replicate k .fastTick ++ es) (n : Nat) :
    agentSteps (k + n) s = List.replicate k (some .fastTick) ++ agentSteps n (fastTick^[k] (s.setArrivals es)) := by
  induction k generalizing s with
  | zero =>
    have h : s.setArrivals es = s := by subst ha; rfl
    simp [h]
  | succ k ih =>
    have ha' : s.arrivals = .fastTick :: (List.replicate k .fastTick ++ es) := ha
    have ho : outsideStep s = fastTick (s.setArrivals (List.replicate k .fastTick ++ es)) := by
      rw [outsideStep, nextEvent_cons ha', takeEvent_cons ha']; rfl
    rw [Nat.add_right_comm, agentSteps_outside hf he, nextEvent_cons ha', ho,
      ih (s := fastTick (s.setArrivals (List.replicate k Event.fastTick ++ es))) hf he rfl, List.replicate_succ,
      List.cons_append]
    rfl

/-- Fast ticks outside a burst, and the event after them. -/
theorem agentSteps_fastTicks_then {k : Nat} {s : State} {e : Event} {es : List Event} (hf : s.fault = none)
    (he : s.seq.state ≠ .executingCommands) (ha : s.arrivals = List.replicate k .fastTick ++ e :: es) :
    agentSteps (k + 1) s = List.replicate k (some .fastTick) ++ [some e] := by
  rw [agentSteps_fastTicks hf he ha 1, agentSteps_outside (by simpa using hf) (by simpa using he),
    nextEvent_cons (e := e) (es := es) (by simp)]
  rfl

/-- A looser bound on the held ticks admits more schedules. -/
theorem RatioSchedule.mono {held held' : Nat → Nat} {steps : List (Option Event)} (h : ∀ j, held j ≤ held' j)
    (hr : RatioSchedule held steps) : RatioSchedule held' steps := by
  intro before between after hs hn
  have := hr before between after hs hn
  have := h (before.count (some .slowTick))
  omega

/-- Where no burst runs, the ratio is exact. -/
theorem RatioSchedule.exact {held : Nat → Nat} {steps : List (Option Event)} (hr : RatioSchedule held steps)
    (hb : HeldByBursts held steps) (hn : none ∉ steps) {before between after : List (Option Event)}
    (hs : steps = before ++ some .slowTick :: (between ++ some .slowTick :: after)) (h : some .slowTick ∉ between) :
    between.count (some .fastTick) = Config.tickRatio := by
  have h0 := hb before between after hs h (by simp_all) (by simp_all)
  have := hr before between after hs h
  omega

/-- Of two slow ticks around `xs` there is one split. -/
theorem interval_unique {before between after xs : List (Option Event)} (hx : some .slowTick ∉ xs)
    (hs : some Event.slowTick :: (xs ++ [some .slowTick]) =
      before ++ some .slowTick :: (between ++ some .slowTick :: after)) :
    before = [] ∧ between = xs := by
  have hc := congrArg (List.count (some Event.slowTick)) hs
  simp only [List.count_cons_self, List.count_append, List.count_nil, List.count_eq_zero_of_not_mem hx] at hc
  have hb : some .slowTick ∉ before := fun h => by have := List.count_pos_iff.mpr h; omega
  have ha : after.count (some .slowTick) = 0 := by omega
  match before with
  | [] =>
    refine ⟨rfl, ?_⟩
    simp only [List.nil_append, List.cons.injEq, true_and] at hs
    rcases List.append_eq_append_iff.mp hs with ⟨c, h1, h2⟩ | ⟨c, h1, h2⟩
    · match c with
      | [] => simpa using h1
      | d :: c =>
        simp only [List.cons_append, List.cons.injEq] at h2
        obtain ⟨_, h2⟩ := h2
        simp at h2
    · match c with
      | [] => simpa using h1.symm
      | d :: c =>
        simp only [List.cons_append, List.cons.injEq] at h2
        obtain ⟨rfl, _⟩ := h2
        exact absurd (by simp [h1]) hx
  | b :: bs =>
    simp only [List.cons_append, List.cons.injEq] at hs
    exact absurd (by simp [← hs.1]) hb

/-- The premise for one interval. -/
theorem ratioSchedule_interval {held : Nat → Nat} {xs : List (Option Event)} (hx : some .slowTick ∉ xs) :
    RatioSchedule held (some .slowTick :: (xs ++ [some .slowTick])) ↔
      xs.count (some .fastTick) ≤ Config.tickRatio + held 0 ∧ Config.tickRatio ≤ xs.count (some .fastTick) + held 0 := by
  constructor
  · intro h
    exact h [] xs [] rfl hx
  · intro h before between after hs _
    obtain ⟨rfl, rfl⟩ := interval_unique hx hs
    exact h

end Sys2Proof.Machine
end

