-- ==== Sys2Proof/Tests/Slice0.lean ====
section
/-! SUPPORT. Tests with expected values from spec/95_test_vectors.md or worked out by hand from the rules, and a
witness for the hypotheses of each statement. -/

namespace Sys2Proof.Tests

open Sys2Proof.Machine

/-! The well-formedness checks refuse an ill-formed term each. -/

theorem test_wellFormed_refuses_missing_pitch : (Instr.playnote 0b0011 [0x40]).wellFormed = false := by decide
theorem test_wellFormed_refuses_extra_pitch : (Instr.playnote 0 [0x40]).wellFormed = false := by decide
theorem test_wellFormed_accepts_pitches : (Instr.playnote 0b0011 [0x40, 0x50]).wellFormed = true := by decide
theorem test_assembly_refuses_mask_16 : (Assembly.stopnote 16).accepted = false := by decide
theorem test_assembly_refuses_pitch_count : (Assembly.playnote 3 [0x40]).accepted = false := by decide
theorem test_assembly_refuses_mask_16_play : (Assembly.playnote 16 []).accepted = false := by decide
theorem test_assembly_refuses_wait_32768 : (Assembly.waitabs 32768).accepted = false := by decide
theorem test_assembly_refuses_delta_32 : (Assembly.waitrel 32).accepted = false := by decide
theorem test_assembly_refuses_delta_low : (Assembly.waitrel (-33)).accepted = false := by decide
theorem test_assembly_accepts_delta_bounds :
    (Assembly.waitrel (-32)).assemble = some [0xE0] ∧ (Assembly.waitrel 31).assemble = some [0xDF] := by decide

/-! Every constructor's decoding, on words written out from R46 and L2.1. -/

theorem test_decode_waitabs : decode [0b00000001, 0b11110100] = .ok (.waitabs 500, []) := by decide
theorem test_decode_waitabs_max : decode [0b01111111, 0b11111111, 0xA0] = .ok (.waitabs 32767, [0xA0]) := by decide
theorem test_decode_stopnote : decode [0b10001111] = .ok (.stopnote 0b1111, []) := by decide
theorem test_decode_playnote : decode [0b10011010, 0x40, 0x51, 0xB0] = .ok (.playnote 0b1010 [0x40, 0x51], [0xB0]) := by
  decide
theorem test_decode_playnote_empty : decode [0b10010000] = .ok (.playnote 0 [], []) := by decide
theorem test_decode_restart : decode [0b10100000] = .ok (.restart, []) := by decide
theorem test_decode_stop : decode [0b10110000] = .ok (.stop, []) := by decide
theorem test_decode_waitrel_high : decode [0b11011111] = .ok (.waitrel 31, []) := by decide
theorem test_decode_intermediate_bytes_are_waits :
    decode [0xE0] = .ok (.waitrel (-32), []) ∧ decode [0xF0] = .ok (.waitrel (-16), []) := by decide
theorem test_decode_illegal : decode [0xA1] = .error (.illegalOpcode 0xA1) ∧
    decode [0xBF] = .error (.illegalOpcode 0xBF) := by decide
theorem test_decode_truncated : decode [0x01] = .error (.overrun 1) ∧ decode [0x93, 0x40] = .error (.overrun 2) ∧
    decode [] = .error (.overrun 0) := by decide

/-- R51, R53: exactly the 30 bytes have no length. -/
theorem test_opcode_map_illegal_rows : ∀ b0 : Byte, firstByteLength b0 = none ↔
    (0xA1 ≤ b0.toNat ∧ b0.toNat ≤ 0xAF) ∨ (0xB1 ≤ b0.toNat ∧ b0.toNat ≤ 0xBF) := by decide

theorem test_encode_words : encode (.waitabs 500) = [0x01, 0xF4] ∧ encode (.playnote 3 [0x40, 0x50]) = [0x93, 0x40, 0x50] ∧
    encode (.waitrel (-3)) = [0xFD] := by decide

theorem test_table_word_waitabs : decodeTableWord 16 0xF401 = some (.waitabs 500) := by decide
theorem test_table_word_playnote : decodeTableWord 8 0x93 = some (.playnote 3 [0x00, 0x00]) := by decide

/-! A small machine: channels 0 to 2 sound, the baseline is 500. -/

/-- A machine in the Sequencer state `st` with 3 ticks left, cursor 0, the score `bytes` and the schedule `es`. -/
def sample (st : SeqState) (bytes : List Byte) (es : List Event) : State :=
  { State.reset with
    ch := ⟨⟨0x100000, 0x100000, true⟩, ⟨0x100000, 0x0FFFFF, true⟩, ⟨0x400000, 0, true⟩, ⟨0x200000, 0x400000, false⟩⟩
    seq := ⟨st, 0, 3, 500, true⟩
    score := Memory.ofBytes bytes
    arrivals := es }

/-- A field of the state that an outcome answers. -/
def field {α : Type} (f : State → α) : Host.Outcome State Fault Refusal → Option α
  | .next s => some (f s)
  | .fault _ => none
  | .refused _ => none

/-- Which channels are active. -/
def actives (s : State) : Four Bool := ⟨s.ch.c0.active, s.ch.c1.active, s.ch.c2.active, s.ch.c3.active⟩

/-- A burst at the start of the score `bytes`. -/
def burst (bytes : List Byte) : State := sample .executingCommands bytes []

theorem test_step_waitabs : field (fun t => (t.seq, t.fault)) (step (burst [0x01, 0xF4])) =
    some (⟨.waiting, 2, 500, 500, true⟩, none) := by decide
theorem test_step_waitabs_zero : field (fun t => (t.seq, t.fault)) (step (burst [0x00, 0x00])) =
    some (⟨.executingCommands, 0, 3, 500, true⟩, some (.nonPositiveWait 0 0)) := by decide
theorem test_step_stopnote : field (fun t => (actives t, t.seq.cursor)) (step (burst [0x85])) =
    some (⟨false, true, false, false⟩, 1) := by decide
theorem test_step_stopnote_keeps_lines : field (fun t => t.out) (step (burst [0x8F])) =
    some ⟨false, false, false, false⟩ := by decide
theorem test_step_playnote : field (fun t => (actives t, t.ch.c1.accumulator, t.ch.c3.accumulator, t.seq.cursor))
    (step (burst [0x9A, 0x40, 0x95])) = some (⟨true, true, true, true⟩, 0x400000, 0x400000, 3) := by decide
theorem test_step_playnote_fault_order : field (fun t => (t.fault, t.ch.c0.accumulator)) (step (burst [0x93, 0xA0, 0x0C])) =
    some (some (.octaveOutOfRange 0xA0), 0x100000) := by decide
theorem test_step_restart : field (fun t => (t.seq, actives t)) (step { burst [0x80, 0xA0] with
    seq := ⟨.executingCommands, 1, 3, 500, true⟩ }) =
    some (⟨.executingCommands, 0, 3, 500, true⟩, ⟨true, true, true, false⟩) := by decide
theorem test_step_stop : field (fun t => (actives t, t.seq.state, t.running)) (step (burst [0xB0])) =
    some (⟨false, false, false, false⟩, .stopped, false) := by decide
theorem test_step_waitrel : field (fun t => t.seq) (step (burst [0xE0])) =
    some ⟨.waiting, 1, 468, 500, true⟩ := by decide
theorem test_step_waitrel_unset : field (fun t => t.fault) (step { burst [0xC5] with
    seq := ⟨.executingCommands, 0, 3, 500, false⟩ }) = some (some (.baselineUnset 0)) := by decide
theorem test_step_illegal : field (fun t => t.fault) (step (burst [0xA7, 0x00])) =
    some (some (.illegalOpcode 0 0xA7)) := by decide
theorem test_step_overrun : field (fun t => t.fault) (step (burst [0x94])) = some (some (.scoreOverrun 1)) := by decide

/-- L2.4: the semitone check is first. -/
theorem test_pitch_faults : noteDecrement 0xFC = .error (.semitoneOutOfRange 0xFC) ∧
    noteDecrement 0xA0 = .error (.octaveOutOfRange 0xA0) ∧ noteDecrement 0x0C = .error (.semitoneOutOfRange 0x0C) := by
  refine ⟨?_, ?_, ?_⟩ <;> rfl

/-- L2.5, four channels in one step. -/
theorem test_fast_tick_lines : field (fun t => t.out) (step (sample .waiting [] [.fastTick])) =
    some ⟨false, true, true, false⟩ := by decide
theorem test_fast_tick_channels : field (fun t => (t.ch.c0.accumulator, t.ch.c1.accumulator, t.ch.c2.accumulator,
    t.ch.c3.accumulator)) (step (sample .waiting [] [.fastTick])) = some (0, 0x3FFFFF, 0, 0x400000) := by decide

/-- L2.6. -/
theorem test_slow_tick : field (fun t => (t.seq.state, t.seq.remainingWaitTicks)) (step (sample .waiting [] [.slowTick])) =
    some (.waiting, 2) := by decide
theorem test_stop_call : field (fun t => (actives t, t.seq.state)) (step (sample .waiting [] [.stop])) =
    some (⟨false, false, false, false⟩, .stopped) := by decide

/-- The empty score fits every buffer (D31). -/
theorem test_play_empty : ∃ t, step (sample .waiting [0xA0] [.play []]) = .next t ∧ t.seq = ⟨.executingCommands, 0, 3, 500, false⟩ ∧
    (t.ch.get 0).active = false ∧ t.fault = none := by
  refine ⟨_, rfl, ?_⟩
  show (play [] (sample .waiting [0xA0] [])).seq = _ ∧ ((play [] (sample .waiting [0xA0] [])).ch.get 0).active = _ ∧
    (play [] (sample .waiting [0xA0] [])).fault = _
  obtain ⟨h, _⟩ | ⟨_, _, h2, h3, _, h5, _⟩ := play_cases [] (sample .waiting [0xA0] [])
  · exact absurd h (Nat.not_lt_zero _)
  · exact ⟨h2, by rw [h3]; rfl, h5⟩

/-- A faulted state has no further step. -/
theorem test_faulted_state_stops : step { burst [0xB0] with fault := some (.baselineUnset 4) } =
    .fault (.baselineUnset 4) := rfl

/-- Running from reset with an instruction placed: `WAITABS 500`. -/
theorem test_withFetchWord_runs : field (fun t => t.seq) (step (State.reset.withFetchWord 16 0xF401)) =
    some ⟨.waiting, 2, 500, 500, true⟩ := by decide

theorem test_fault_codes : [Fault.illegalOpcode 0 0, .scoreOverrun 0, .semitoneOutOfRange 0, .octaveOutOfRange 0,
    .nonPositiveWait 0 0, .baselineUnset 0, .scoreTooLarge 0].map Fault.code = [1, 2, 3, 4, 5, 6, 7] := by decide

/-! Witnesses: a concrete state and operands that meet the hypotheses of each statement together, one for each
clause that has its own. -/

theorem witness_DecodeOfEncode : (Instr.playnote 0b1111 [0xFF, 0x00, 0x40, 0x95]).wellFormed = true := by decide
theorem witness_DecodedBytes : decode [0xC5, 0xA0] = .ok (.waitrel 5, [0xA0]) := by decide
theorem witness_Length : decode [0x92, 0x50, 0xA0] = .ok (.playnote 2 [0x50], [0xA0]) := by decide
theorem witness_LengthRanges : (0x7F : Byte).toNat < 0x80 ∧ 0x80 ≤ (0x8F : Byte).toNat ∧ (0x8F : Byte).toNat ≤ 0x8F ∧
    0x90 ≤ (0x9F : Byte).toNat ∧ (0x9F : Byte).toNat ≤ 0x9F ∧ (0xB0 : Byte).toNat = 0xB0 ∧ 0xC0 ≤ (0xC0 : Byte).toNat := by
  decide
theorem witness_IllegalFirstByte : IllegalFirstByte 0xA1 ∧ IllegalFirstByte 0xBF := by
  unfold IllegalFirstByte; decide
theorem witness_WaitOperands : (0x7F : Byte).toNat < 0x80 ∧ 0xC0 ≤ (0xC0 : Byte).toNat ∧ 0xC0 ≤ (0xFF : Byte).toNat := by decide
theorem witness_NoteOperands : 0x80 ≤ (0x80 : Byte).toNat ∧ 0x90 ≤ (0x9F : Byte).toNat ∧ (0x9F : Byte).toNat ≤ 0x9F ∧
    ([0x40, 0x50, 0x60, 0x70] : List Byte).length =
      (Finset.univ.filter fun i : Fin 4 => (0x9F : Byte).toNat.testBit i = true).card := by decide
theorem witness_EqualScores : (Memory.ofBytes [0x00, 0x40]).wf = true := by decide
theorem witness_OnlyPlay : ∃ t, step (sample .stopped [0xA0] [.play []]) = .next t ∧
    t.score.len ≠ (sample .stopped [0xA0] [.play []]).score.len := by
  refine ⟨_, rfl, ?_⟩
  show (play [] (sample .stopped [0xA0] [])).score.len ≠ 1
  obtain ⟨h, _⟩ | ⟨_, h, _⟩ := play_cases [] (sample .stopped [0xA0] [])
  · exact absurd h (Nat.not_lt_zero _)
  · rw [h]; decide
theorem witness_StepRuns : (burst [0x91, 0x40]).fault = none ∧ (burst [0x91, 0x40]).seq.state = .executingCommands ∧
    (Instr.playnote 1 [0x40]).wellFormed = true ∧ ∀ k, k < (encode (.playnote 1 [0x40])).length →
      (burst [0x91, 0x40]).score.read ((burst [0x91, 0x40]).seq.cursor + k) = (encode (.playnote 1 [0x40]))[k]? := by
  decide
theorem witness_StepIllegal : (burst [0xAF]).fault = none ∧ (burst [0xAF]).seq.state = .executingCommands ∧
    (burst [0xAF]).score.read (burst [0xAF]).seq.cursor = some 0xAF ∧ IllegalFirstByte 0xAF := by
  unfold IllegalFirstByte; decide
theorem witness_StepOverrunFirst : (burst []).fault = none ∧ (burst []).seq.state = .executingCommands ∧
    (burst []).score.len ≤ (burst []).seq.cursor := by decide
theorem witness_StepOverrunOperand : (burst [0x93, 0x40]).fault = none ∧
    (burst [0x93, 0x40]).seq.state = .executingCommands ∧
    (burst [0x93, 0x40]).score.read (burst [0x93, 0x40]).seq.cursor = some 0x93 ∧ firstByteLength 0x93 = some 3 ∧
    (burst [0x93, 0x40]).score.len < (burst [0x93, 0x40]).seq.cursor + 3 := by decide
theorem witness_StepOverrunEmpty : (sample .stopped [0xA0] [.play []]).fault = none ∧
    (sample .stopped [0xA0] [.play []]).seq.state ≠ .executingCommands ∧
    (sample .stopped [0xA0] [.play []]).nextEvent = .play [] := by decide
theorem witness_Faults : ∃ t f, step (burst [0xA5]) = .next t ∧ t.fault = some f := ⟨_, _, rfl, rfl⟩
theorem witness_Faulted : (raiseFault (.baselineUnset 3) (burst [])).fault = some (.baselineUnset 3) := rfl
theorem witness_Unfaulted : (burst [0xA5]).fault = none := rfl

/-- A waiting machine with an active channel meets the invariant. -/
theorem witness_Inv : (sample .waiting [] [.slowTick]).Inv where
  channels := by
    intro i _
    fin_cases i <;> refine ⟨?_, ?_, ?_⟩ <;> decide
  stopped := by intro h; cases h
  waiting := by intro _; decide
  baseline := by intro _; decide
  cursor := by intro _; decide
  memory := by decide
  capacity := Nat.zero_le _
theorem witness_InvStep : (sample .waiting [] [.slowTick]).Inv ∧ ∃ t, step (sample .waiting [] [.slowTick]) = .next t :=
  ⟨witness_Inv, _, rfl⟩
theorem witness_PowerOnTick : IsTick .fastTick ∧ IsTick .slowTick := ⟨.inl rfl, .inr rfl⟩
theorem witness_StopNote : selects 0b0101 (0 : Fin 4) = true ∧ selects 0b0101 (1 : Fin 4) = false := by decide
theorem witness_PlayNote : ([0x9B, 0x00] : List Byte).length = popcount 0b1010 ∧
    (∀ p ∈ ([0x9B, 0x00] : List Byte), PitchOk p) ∧ selects 0b1010 (3 : Fin 4) = true ∧
    selects 0b1010 (0 : Fin 4) = false := by
  unfold PitchOk; decide
theorem witness_PlayNoteBadSemitone : ([0x40] ++ 0xFC :: ([] : List Byte)).length = popcount 0b0011 ∧
    (∀ q ∈ ([0x40] : List Byte), PitchOk q) ∧ 12 ≤ semitoneClass 0xFC := by unfold PitchOk; decide
theorem witness_PlayNoteBadOctave : (([] : List Byte) ++ 0xA0 :: [0x0C]).length = popcount 0b0011 ∧
    (∀ q ∈ ([] : List Byte), PitchOk q) ∧ semitoneClass 0xA0 < 12 ∧ 10 ≤ octaveIndex 0xA0 := by unfold PitchOk; decide
theorem witness_IllFormed : ([] : List Byte).length ≠ popcount 1 := by decide
theorem witness_WaitAbsolute : 1 ≤ (1 : BitVec 15).toNat ∧ 1 ≤ (32767 : BitVec 15).toNat := by decide
theorem witness_WaitRelative : (burst []).seq.baselineValid = true ∧
    0 < ((burst []).seq.waitBaseline : Int) + (-32 : BitVec 6).toInt := by decide
theorem witness_WaitAbsoluteZero : (0 : BitVec 15).toNat = 0 := by decide
theorem witness_WaitRelativeSums : ((burst []).setBaseline 33).seq.baselineValid = true ∧
    0 < (((burst []).setBaseline 33).seq.waitBaseline : Int) + (-32 : BitVec 6).toInt ∧
    ((burst []).setBaseline 32).seq.baselineValid = true ∧
    (((burst []).setBaseline 32).seq.waitBaseline : Int) + (-32 : BitVec 6).toInt ≤ 0 := by decide
theorem witness_BaselineUnset : ((burst []).setBaselineValid false).seq.baselineValid = false := rfl
theorem witness_NoDriftAbsolute : ∃ t, step (burst [0x00, 0x01]) = .next t ∧
    t.seq.waitBaseline ≠ (burst [0x00, 0x01]).seq.waitBaseline := ⟨_, rfl, by decide⟩
theorem witness_NoDriftRelative : (burst [0xC5]).seq.state = .executingCommands ∧
    fetchDecode (burst [0xC5]) = .ok (.waitrel 5) ∧ ∃ t, step (burst [0xC5]) = .next t ∧ t.fault = none :=
  ⟨rfl, rfl, _, rfl, rfl⟩
theorem witness_CommandsMatrix : (burst [0x81]).seq.state = .executingCommands ∧
    fetchDecode (burst [0x81]) = .ok (.stopnote 1) ∧ ∃ t, step (burst [0x81]) = .next t ∧
    (t.ch.get 0).active ≠ ((burst [0x81]).ch.get 0).active := ⟨rfl, rfl, _, rfl, by decide⟩
theorem witness_CommandsMatrixCursor : fetchDecode (burst [0xA0]) = .ok .restart ∧ Instr.restart ≠ .stop ∧
    (∃ t, step (burst [0xA0]) = .next t ∧ t.fault = none) ∧
    fetchDecode (burst [0x00, 0x00]) = .ok (.waitabs 0) ∧
    ∃ t, step (burst [0x00, 0x00]) = .next t ∧ t.fault ≠ none :=
  ⟨rfl, by decide, ⟨_, rfl, rfl⟩, rfl, _, rfl, by decide⟩
theorem witness_OutsideMatrix : (sample .waiting [] [.fastTick]).seq.state ≠ .executingCommands ∧
    ∃ t, step (sample .waiting [] [.fastTick]) = .next t ∧ t.out ≠ (sample .waiting [] [.fastTick]).out :=
  ⟨by decide, _, rfl, by decide⟩
theorem witness_TableInBurst : ∃ t, step (burst [0xA0]) = .next t ∧ t.fault = none ∧
    (burst [0xA0]).seq.state = .executingCommands := ⟨_, rfl, rfl, rfl⟩
theorem witness_TableFaulted : ∃ t, step (burst [0xA1]) = .next t ∧ t.fault ≠ none := ⟨_, rfl, by decide⟩
theorem witness_TableOutside : ∃ t, step (sample .waiting [] [.slowTick]) = .next t ∧ t.fault = none ∧
    (sample .waiting [] [.slowTick]).seq.state ≠ .executingCommands := ⟨_, rfl, rfl, by decide⟩
theorem witness_Lines : ∃ t, step (sample .waiting [] [.fastTick]) = .next t ∧
    t.out.get 1 ≠ (sample .waiting [] [.fastTick]).out.get 1 := ⟨_, rfl, by decide⟩
theorem witness_FastTick : (sample .waiting [] [.fastTick]).fault = none ∧
    (sample .waiting [] [.fastTick]).seq.state ≠ .executingCommands ∧
    (sample .waiting [] [.fastTick]).nextEvent = .fastTick ∧ ((sample .waiting [] [.fastTick]).ch.get 1).active = true ∧
    ((sample .waiting [] [.fastTick]).ch.get 1).InRange := by
  refine ⟨rfl, by decide, rfl, rfl, fun _ => ⟨?_, ?_, ?_⟩⟩ <;> decide
theorem witness_FastTickInactive : (sample .waiting [] [.fastTick]).nextEvent = .fastTick ∧
    ((sample .waiting [] [.fastTick]).ch.get 3).active = false := ⟨rfl, rfl⟩

/-- Channel 0 just started with decrement `d`. -/
def justStarted (d : Word) : State :=
  { sample .waiting [] [] with ch := ⟨startedChannel d, startedChannel d, startedChannel d, startedChannel d⟩ }

theorem witness_Toggle : ((justStarted 0x100000).ch.get 0).active = true ∧
    ((justStarted 0x100000).ch.get 0).accumulator.toInt = Config.RESTART ∧
    ((justStarted 0x100000).ch.get 0).decrement.toNat = 0x100000 ∧ 0x100000 ≤ Config.RESTART ∧ 0 < 0x100000 := by decide
theorem witness_ToggleZero : ((justStarted 0).ch.get 0).active = true ∧
    ((justStarted 0).ch.get 0).accumulator.toInt = Config.RESTART ∧
    ((justStarted 0).ch.get 0).decrement.toNat = 0 ∧ 0 ≤ Config.RESTART := by decide

/-- L2.5: `T(9) = 2` for `d = RESTART/4`, and the first toggle at step 5. -/
theorem test_toggle_law : toggleLaw 0x100000 9 = 2 ∧ toggleLaw 0x100000 4 = 0 ∧ toggleLaw 0x100000 5 = 1 ∧
    toggleLaw 0x300000 6 = 4 ∧ toggleLaw 0x400000 3 = 2 ∧ toggleLaw 0 100 = 0 := by decide

theorem witness_Lookup : 12 ≤ semitoneClass 0x0C ∧ (semitoneClass 0xAB < 12 ∧ 10 ≤ octaveIndex 0xAB) ∧
    (semitoneClass 0x9B < 12 ∧ octaveIndex 0x9B < 10) := by decide
theorem witness_LookupMonotone : (0 : BitVec 4).toNat ≤ (11 : BitVec 4).toNat ∧
    (∃ d, noteDecrement (4#4 ++ 0#4 : BitVec (4 + 4)) = .ok d) ∧
    (∃ d, noteDecrement (4#4 ++ 11#4 : BitVec (4 + 4)) = .ok d) ∧ (8 : BitVec 4).toNat ≤ 8 ∧ (11 : BitVec 4).toNat < 12 :=
  ⟨by decide, ⟨_, rfl⟩, ⟨_, rfl⟩, by decide, by decide⟩
theorem witness_SlowTick : (sample .waiting [] [.slowTick]).fault = none ∧
    (sample .waiting [] [.slowTick]).seq.state ≠ .executingCommands ∧
    (sample .waiting [] [.slowTick]).nextEvent = .slowTick ∧ (sample .waiting [] [.slowTick]).seq.state = .waiting ∧
    1 ≤ (sample .waiting [] [.slowTick]).seq.remainingWaitTicks ∧
    (sample .stopped [] [.slowTick]).seq.state = .stopped ∧ (sample .stopped [] [.slowTick]).nextEvent = .slowTick := by decide

/-- Two slow ticks of the three, with fast ticks between them. -/
def ticks : List Event := [.fastTick, .slowTick, .fastTick, .slowTick]

theorem ticks_isTick : ∀ e ∈ ticks, IsTick e := by
  simp [ticks, IsTick]
theorem witness_Wait : (sample .waiting [] (ticks ++ [.stop])).fault = none ∧
    (sample .waiting [] (ticks ++ [.stop])).seq.state = .waiting ∧
    (sample .waiting [] (ticks ++ [.stop])).arrivals = ticks ++ [.stop] ∧
    ticks.count .slowTick < (sample .waiting [] (ticks ++ [.stop])).seq.remainingWaitTicks := by decide
theorem witness_WaitEnds : (sample .waiting [] (ticks ++ [.slowTick])).arrivals = ticks ++ .slowTick :: [] ∧
    ticks.count .slowTick + 1 = (sample .waiting [] (ticks ++ [.slowTick])).seq.remainingWaitTicks := by decide

/-- The steps of a slow tick, the burst of a `STOPNOTE` and a `WAITABS` that it starts, and two ticks after it. -/
theorem test_agent_steps : agentSteps 5 { sample .waiting [0x81, 0x00, 0x02] [.slowTick, .fastTick, .slowTick] with
    seq := ⟨.waiting, 0, 1, 500, true⟩ } =
    [some .slowTick, none, none, some .fastTick, some .slowTick] := by decide

/-- An interval with one `Dispatch` step and `n` fast ticks. -/
def interval (n : Nat) : List (Option Event) :=
  some .slowTick :: (none :: List.replicate n (some .fastTick) ++ [some .slowTick])

/-- R117: the burst held a fast tick and lost it. -/
theorem test_ratio_admits_a_lost_tick : RatioSchedule (fun _ => 1) (interval (Config.tickRatio - 1)) :=
  (ratioSchedule_interval (by simp [List.mem_replicate])).mpr (by simp; omega)
/-- R61, I18: a fast tick that an earlier burst held comes late. -/
theorem test_ratio_admits_a_late_tick : RatioSchedule (fun _ => 1) (interval (Config.tickRatio + 1)) :=
  (ratioSchedule_interval (by simp [List.mem_replicate])).mpr (by simp; omega)
/-- With none held, the ratio is exact. -/
theorem test_ratio_refuses_a_missing_tick : ¬ RatioSchedule (fun _ => 0) (interval (Config.tickRatio + 1)) :=
  fun h => by
    have := ((ratioSchedule_interval (by simp [List.mem_replicate])).mp h).1
    simp at this

/-- The last two slow ticks of a wait, with the ratio's fast ticks between them. -/
def exactWait : State :=
  { sample .waiting [] (.slowTick :: (List.replicate Config.tickRatio .fastTick ++ [.slowTick])) with
    seq := ⟨.waiting, 0, 2, 500, true⟩ }

theorem exactWait_steps : agentSteps (Config.tickRatio + 2) exactWait =
    some .slowTick :: (List.replicate Config.tickRatio (some .fastTick) ++ [some .slowTick]) := by
  have h : outsideStep exactWait =
      { sample .waiting [] (List.replicate Config.tickRatio .fastTick ++ [.slowTick]) with
        seq := ⟨.waiting, 0, 1, 500, true⟩ } := rfl
  rw [agentSteps_outside rfl (by decide), h, agentSteps_fastTicks_then (e := .slowTick) (es := []) rfl (by decide) rfl]
  rfl
theorem witness_WaitRatio : exactWait.fault = none ∧ exactWait.seq.state = .waiting ∧
    (∀ e ∈ List.replicate Config.tickRatio Event.fastTick, IsTick e) ∧
    exactWait.arrivals = .slowTick :: (List.replicate Config.tickRatio .fastTick ++ .slowTick :: []) ∧
    (List.replicate Config.tickRatio Event.fastTick).count .slowTick + 2 = exactWait.seq.remainingWaitTicks ∧
    RatioSchedule (fun _ => 0)
      (agentSteps ((List.replicate Config.tickRatio Event.fastTick).length + 2) exactWait) ∧
    HeldByBursts (fun _ => 0)
      (agentSteps ((List.replicate Config.tickRatio Event.fastTick).length + 2) exactWait) := by
  refine ⟨rfl, rfl, fun e he => .inl (List.eq_of_mem_replicate he), rfl, ?_, ?_, fun _ _ _ _ _ _ _ => rfl⟩
  · rw [List.count_eq_zero_of_not_mem (by simp [List.mem_replicate])]; rfl
  · rw [List.length_replicate, exactWait_steps]
    exact (ratioSchedule_interval (by simp [List.mem_replicate])).mpr (by simp)
theorem witness_Play : (sample .waiting [] [.play []]).fault = none ∧
    (sample .waiting [] [.play []]).seq.state ≠ .executingCommands ∧
    (sample .waiting [] [.play []]).nextEvent = .play [] ∧ ([] : List Byte).length ≤ Config.scoreCapacity :=
  ⟨rfl, by decide, rfl, Nat.zero_le _⟩
theorem witness_PlayInv : (sample .waiting [] [.play []]).Inv :=
  ⟨witness_Inv.channels, (by intro h; cases h), fun _ => by decide, fun _ => by decide, fun _ => by decide, by decide,
    Nat.zero_le _⟩
theorem witness_PlayTooLarge : ∃ bytes : List Byte,
    (sample .waiting [] [.play bytes]).nextEvent = .play bytes ∧ Config.scoreCapacity < bytes.length :=
  ⟨List.replicate (Config.scoreCapacity + 1) 0xA0, rfl, by simp⟩
theorem witness_StopCall : (sample .waiting [] [.stop]).fault = none ∧
    (sample .waiting [] [.stop]).seq.state ≠ .executingCommands ∧ (sample .waiting [] [.stop]).nextEvent = .stop := by decide
theorem witness_ReadRunning : (sample .waiting [] [.readRunning]).fault = none ∧
    (sample .waiting [] [.readRunning]).seq.state ≠ .executingCommands ∧
    (sample .waiting [] [.readRunning]).nextEvent = .readRunning := by decide

/-- A stopped machine with every channel inactive, and the events `es` to come. -/
def silent (es : List Event) : State := (stopTransition (sample .stopped [] [])).setArrivals es

theorem witness_Final : (silent [.fastTick]).Inv ∧ (silent [.fastTick]).Final ∧ IsTick (silent [.fastTick]).nextEvent := by
  have h : ∀ i, ((silent [.fastTick]).ch.get i).active = false := by intro i; fin_cases i <;> rfl
  refine ⟨⟨fun i h' => ?_, fun _ => h, (by intro h; cases h), fun _ => by decide, fun h => absurd rfl h, by decide, Nat.zero_le _⟩,
    ⟨rfl, rfl⟩, .inl rfl⟩
  rw [h] at h'; cases h'
theorem witness_StopCallStopped : (silent [.stop]).fault = none ∧ (silent [.stop]).seq.state = .stopped ∧
    (silent [.stop]).nextEvent = .stop := by decide

end Sys2Proof.Tests
end

section
/-! The family of 10_state.md: the power-on states (R32, R110), who writes what (R30), and the output lines (R18). -/

namespace Sys2Proof.Machine

/-! Ticks that do nothing. -/

/-- With every channel inactive a fast tick changes nothing at all (R87). -/
theorem fastTick_eq_self {s : State} (h : ∀ i, (s.ch.get i).active = false) : fastTick s = s := by
  have hch : (Four.ofFn fun i => (s.ch.get i).advance) = s.ch :=
    Four.ext_get fun i => by rw [Four.get_ofFn, Channel.advance_inactive (h i)]
  have hout : (Four.ofFn fun i => (s.out.get i) ^^ (s.ch.get i).underflows) = s.out :=
    Four.ext_get fun i => by rw [Four.get_ofFn, Channel.underflows_inactive (h i), Bool.xor_false]
  rw [fastTick, hch, hout]
  rfl

/-- Outside `Waiting` a slow tick changes nothing at all (R67). -/
theorem slowTick_eq_self {s : State} (h : s.seq.state ≠ .waiting) : slowTick s = s := by
  simp only [slowTick, if_neg h]

/-- A silent state that does not wait stays as it is under the ticks. -/
theorem applyEvent_tick_eq_self {s : State} {e : Event} (hch : ∀ i, (s.ch.get i).active = false)
    (hw : s.seq.state ≠ .waiting) (he : IsTick e) : applyEvent e s = s := by
  obtain rfl | rfl := he
  · exact fastTick_eq_self hch
  · exact slowTick_eq_self hw

/-! Power-on. -/

section
variable (d : PowerOnDraws)
@[simp] theorem State.powerOn_ch_get (i : Fin 4) :
    (State.powerOn d).ch.get i = ⟨d.decrement.get i, d.accumulator.get i, false⟩ := by
  fin_cases i <;> rfl
@[simp] theorem State.powerOn_state : (State.powerOn d).seq.state = .stopped := rfl
@[simp] theorem State.powerOn_valid : (State.powerOn d).seq.baselineValid = false := rfl
@[simp] theorem State.powerOn_score_len : (State.powerOn d).score.len = 0 := rfl
end

/-- Power-on meets the invariant: its implications are about active channels, playback and a valid baseline, and
power-on has none of them. -/
theorem State.powerOn_inv (d : PowerOnDraws) : (State.powerOn d).Inv where
  channels i h := by simp at h
  stopped _ i := by simp
  waiting h := by simp at h
  baseline h := by simp at h
  cursor h := by simp at h
  memory := rfl
  capacity := Nat.zero_le _

/-- Settles O19: reset is the power-on of one draw. -/
theorem powerOnMeetsTheInvariant : Obligations.PowerOnMeetsTheInvariant :=
  ⟨State.powerOn_inv, State.powerOn_inv _⟩

/-- Settles O20: power-on is silent and does not wait, so ticks do nothing. -/
theorem powerOnIsStoppedAndSilent : Obligations.PowerOnIsStoppedAndSilent := by
  refine ⟨fun d => ⟨rfl, rfl, State.powerOn_ch_get d, rfl, rfl, fun a => ?_, rfl, fun e he => ?_⟩, _, rfl⟩
  · exact Memory.read_eq_none.mpr (Nat.zero_le a)
  · exact applyEvent_tick_eq_self (by simp) (by simp) he

/-! What a command that does not fault leaves. -/

/-- `Completes s c t`: command `c` completes in `s` without a fault and leaves `t` (R74 to R79). `exec_cases` ties it
to `exec`. -/
inductive Completes (s : State) : Instr → State → Prop where
  | waitabs (v : BitVec 15) : v.toNat ≠ 0 →
      Completes s (.waitabs v) (((enterWaiting v.toNat 2 s).setBaseline v.toNat).setBaselineValid true)
  | stopnote (m : BitVec 4) :
      Completes s (.stopnote m)
        ((s.setCh (mapSelected m (fun _ => Channel.deactivate) s.ch)).setCursor (s.seq.cursor + 1))
  | playnote (m : BitVec 4) (ps : List Byte) (ds : List Word) : ps.length = popcount m → noteDecrements ps = .ok ds →
      Completes s (.playnote m ps)
        ((s.setCh (mapSelected m (fun i _ => startedChannel (ds.getD (rank m i) 0)) s.ch)).setCursor
          (s.seq.cursor + (1 + popcount m)))
  | restart : Completes s .restart (s.setCursor 0)
  | stop :
      Completes s .stop (((stopTransition s).setCursor (Config.cursorAfterStop s.draws)).setDraws (s.draws + 1))
  | waitrel (d : BitVec 6) : s.seq.baselineValid = true → 0 < relativeWait s d →
      Completes s (.waitrel d) (enterWaiting (relativeWait s d).toNat 1 s)

/-- Everything a command that answers a next state can have done: raise a fault, or complete. -/
theorem exec_cases {c : Instr} {s t : State} (h : exec c s = .next t) :
    (∃ f, t = raiseFault f s) ∨ Completes s c t := by
  cases c with
  | waitabs v =>
    obtain ⟨-, he⟩ | ⟨hv, he⟩ := execWaitabs_cases v s <;> cases he.symm.trans h
    · exact .inl ⟨_, rfl⟩
    · exact .inr (.waitabs v hv)
  | stopnote m => cases h; exact .inr (.stopnote m)
  | playnote m ps =>
    obtain ⟨-, he⟩ | ⟨-, f, -, he⟩ | ⟨hl, ds, hd, he⟩ := execPlaynote_cases m ps s <;> cases he.symm.trans h
    · exact .inl ⟨f, rfl⟩
    · exact .inr (.playnote m ps ds hl hd)
  | restart => cases h; exact .inr .restart
  | stop => cases h; exact .inr .stop
  | waitrel d =>
    obtain ⟨-, he⟩ | ⟨-, -, he⟩ | ⟨hv, hw, he⟩ := execWaitrel_cases d s <;> cases he.symm.trans h
    · exact .inl ⟨_, rfl⟩
    · exact .inl ⟨_, rfl⟩
    · exact .inr (.waitrel d hv hw)

section
variable {s t : State} {c : Instr}

theorem Completes.out_eq (h : Completes s c t) : t.out = s.out := by cases h <;> rfl

theorem Completes.score_eq (h : Completes s c t) : t.score = s.score := by cases h <;> rfl

theorem Completes.fault_eq (h : Completes s c t) : t.fault = s.fault := by cases h <;> rfl

/-- Everything a completing command can do to a channel. -/
theorem Completes.ch_get_cases (h : Completes s c t) (i : Fin 4) :
    t.ch.get i = s.ch.get i ∨
    (∃ m ps, c = .playnote m ps ∧ selects m i = true) ∨
    (((∃ m, c = .stopnote m ∧ selects m i = true) ∨ c = .stop) ∧ t.ch.get i = (s.ch.get i).deactivate) := by
  cases h with
  | stopnote m =>
    cases hm : selects m i with
    | false => exact .inl (by simp [mapSelected_get, hm])
    | true => exact .inr (.inr ⟨.inl ⟨m, rfl, hm⟩, by simp [mapSelected_get, hm]⟩)
  | playnote m ps =>
    cases hm : selects m i with
    | false => exact .inl (by simp [mapSelected_get, hm])
    | true => exact .inr (.inl ⟨m, ps, rfl, hm⟩)
  | stop => exact .inr (.inr ⟨.inr rfl, stopTransition_ch s i⟩)
  | waitabs | restart | waitrel => exact .inl rfl

theorem Completes.decrement_ne (h : Completes s c t) {i : Fin 4}
    (hne : (t.ch.get i).decrement ≠ (s.ch.get i).decrement) : ∃ m ps, c = .playnote m ps ∧ selects m i = true := by
  obtain heq | hplay | ⟨-, heq⟩ := h.ch_get_cases i
  · exact absurd (by rw [heq]) hne
  · exact hplay
  · exact absurd (by rw [heq, Channel.deactivate_decrement]) hne

theorem Completes.accumulator_ne (h : Completes s c t) {i : Fin 4}
    (hne : (t.ch.get i).accumulator ≠ (s.ch.get i).accumulator) :
    ∃ m ps, c = .playnote m ps ∧ selects m i = true := by
  obtain heq | hplay | ⟨-, heq⟩ := h.ch_get_cases i
  · exact absurd (by rw [heq]) hne
  · exact hplay
  · exact absurd (by rw [heq, Channel.deactivate_accumulator]) hne

theorem Completes.active_ne (h : Completes s c t) {i : Fin 4} (hne : (t.ch.get i).active ≠ (s.ch.get i).active) :
    (∃ m, c = .stopnote m ∧ selects m i = true) ∨ (∃ m ps, c = .playnote m ps ∧ selects m i = true) ∨ c = .stop := by
  obtain heq | hplay | ⟨hstopnote | hstop, -⟩ := h.ch_get_cases i
  · exact absurd (by rw [heq]) hne
  · exact .inr (.inl hplay)
  · exact .inl hstopnote
  · exact .inr (.inr hstop)

theorem Completes.state_ne (h : Completes s c t) (hne : t.seq.state ≠ s.seq.state) :
    c = .stop ∨ (∃ v, c = .waitabs v) ∨ ∃ d, c = .waitrel d := by
  cases h with
  | stop => exact .inl rfl
  | waitabs v => exact .inr (.inl ⟨v, rfl⟩)
  | waitrel d => exact .inr (.inr ⟨d, rfl⟩)
  | stopnote | playnote | restart => exact absurd rfl hne

theorem Completes.remaining_ne (h : Completes s c t) (hne : t.seq.remainingWaitTicks ≠ s.seq.remainingWaitTicks) :
    (∃ v, c = .waitabs v) ∨ ∃ d, c = .waitrel d := by
  cases h with
  | waitabs v => exact .inl ⟨v, rfl⟩
  | waitrel d => exact .inr ⟨d, rfl⟩
  | stopnote | playnote | restart | stop => exact absurd rfl hne

theorem Completes.baseline_ne (h : Completes s c t) (hne : t.seq.waitBaseline ≠ s.seq.waitBaseline) :
    ∃ v, c = .waitabs v := by
  cases h with
  | waitabs v => exact ⟨v, rfl⟩
  | stopnote | playnote | restart | stop | waitrel => exact absurd rfl hne

theorem Completes.valid_ne (h : Completes s c t) (hne : t.seq.baselineValid ≠ s.seq.baselineValid) :
    ∃ v, c = .waitabs v := by
  cases h with
  | waitabs v => exact ⟨v, rfl⟩
  | stopnote | playnote | restart | stop | waitrel => exact absurd rfl hne

/-- Where a completing command leaves the cursor; after `Stop` it has no defined value (R77). -/
theorem Completes.cursor_eq (h : Completes s c t) (hc : c ≠ .stop) :
    t.seq.cursor = if c = .restart then 0 else s.seq.cursor + c.length := by
  cases h with
  | restart => rfl
  | stop => exact absurd rfl hc
  | waitabs | stopnote | playnote | waitrel => rw [if_neg nofun]; rfl

end

/-! Who writes what in a burst. -/

/-- A step in a burst that decodes a command: it faults, or the command completes. -/
theorem step_command_cases {s t : State} {c : Instr} (he : s.seq.state = .executingCommands)
    (hc : fetchDecode s = .ok c) (h : step s = .next t) :
    s.fault = none ∧ ((∃ f, t = raiseFault f s) ∨ Completes s c t) := by
  obtain ⟨hf, ⟨-, c', hc', hx⟩ | ⟨-, f, hc', -⟩ | ⟨hn, -⟩⟩ := step_cases h
  · cases hc.symm.trans hc'
    exact ⟨hf, exec_cases hx⟩
  · cases hc.symm.trans hc'
  · exact absurd he hn

/-- Settles O29: a command that faults writes the record only, and one that completes writes what its row lists. -/
theorem commandsWriteWhatTheMatrixLists : Obligations.CommandsWriteWhatTheMatrixLists := by
  intro s t c he hc h
  obtain ⟨hf, ⟨f, rfl⟩ | hx⟩ := step_command_cases he hc h
  · simp
  · exact ⟨fun _ => hx.decrement_ne, fun _ => hx.accumulator_ne, fun _ => hx.active_ne, hx.state_ne, hx.remaining_ne,
      hx.baseline_ne, hx.valid_ne, fun hne => absurd (hx.fault_eq.trans hf) hne, fun _ => hx.cursor_eq, hx.out_eq,
      hx.score_eq⟩

/-! Who writes what outside a burst. -/

section
variable (bytes : List Byte) (s : State)
/-- `Play` writes no decrement: the Stop transition in it only deactivates. -/
@[simp] theorem play_decrement (i : Fin 4) : ((play bytes s).ch.get i).decrement = (s.ch.get i).decrement := by
  obtain ⟨-, h⟩ | ⟨-, -, -, hch, -⟩ := play_cases bytes s
  · rw [h, raiseFault_ch]
  · rw [hch]; split <;> rfl
/-- `Play` writes no accumulator. -/
@[simp] theorem play_accumulator (i : Fin 4) :
    ((play bytes s).ch.get i).accumulator = (s.ch.get i).accumulator := by
  obtain ⟨-, h⟩ | ⟨-, -, -, hch, -⟩ := play_cases bytes s
  · rw [h, raiseFault_ch]
  · rw [hch]; split <;> rfl
@[simp] theorem play_out : (play bytes s).out = s.out := by
  obtain ⟨-, h⟩ | ⟨-, -, -, -, hout, -⟩ := play_cases bytes s
  · rw [h, raiseFault_out]
  · exact hout
@[simp] theorem play_remaining : (play bytes s).seq.remainingWaitTicks = s.seq.remainingWaitTicks := by
  obtain ⟨-, h⟩ | ⟨-, -, hseq, -⟩ := play_cases bytes s
  · rw [h, raiseFault_seq]
  · rw [hseq]
@[simp] theorem play_baseline : (play bytes s).seq.waitBaseline = s.seq.waitBaseline := by
  obtain ⟨-, h⟩ | ⟨-, -, hseq, -⟩ := play_cases bytes s
  · rw [h, raiseFault_seq]
  · rw [hseq]
end

section
variable {e : Event} {s : State} {i : Fin 4}

/-- No agent outside a burst writes a decrement (R15). -/
theorem applyEvent_decrement (e : Event) (s : State) (i : Fin 4) :
    ((applyEvent e s).ch.get i).decrement = (s.ch.get i).decrement := by
  cases e with
  | play bytes => exact play_decrement bytes s i
  | stop => simp [applyEvent, stopCall]
  | readRunning => rfl
  | fastTick => simp [applyEvent]
  | slowTick => simp [applyEvent]

/-- No agent outside a burst writes the baseline (R23). -/
theorem applyEvent_baseline (e : Event) (s : State) :
    (applyEvent e s).seq.waitBaseline = s.seq.waitBaseline := by
  cases e with
  | play bytes => exact play_baseline bytes s
  | slowTick => exact slowTick_baseline s
  | stop | readRunning | fastTick => rfl

theorem applyEvent_accumulator_ne (hne : ((applyEvent e s).ch.get i).accumulator ≠ (s.ch.get i).accumulator) :
    e = .fastTick := by
  cases e with
  | fastTick => rfl
  | play bytes => exact absurd (play_accumulator bytes s i) hne
  | stop => exact absurd (by simp [applyEvent, stopCall]) hne
  | readRunning => exact absurd rfl hne
  | slowTick => exact absurd (by simp [applyEvent]) hne

theorem applyEvent_active_ne (hne : ((applyEvent e s).ch.get i).active ≠ (s.ch.get i).active) :
    e = .stop ∨ ∃ bytes, e = .play bytes := by
  cases e with
  | stop => exact .inl rfl
  | play bytes => exact .inr ⟨bytes, rfl⟩
  | readRunning => exact absurd rfl hne
  | fastTick => exact absurd (by simp [applyEvent]) hne
  | slowTick => exact absurd (by simp [applyEvent]) hne

theorem applyEvent_out_ne (hne : (applyEvent e s).out ≠ s.out) : e = .fastTick := by
  cases e with
  | fastTick => rfl
  | play bytes => exact absurd (play_out bytes s) hne
  | slowTick => exact absurd (slowTick_out s) hne
  | stop | readRunning => exact absurd rfl hne

theorem applyEvent_state_ne (hne : (applyEvent e s).seq.state ≠ s.seq.state) :
    e = .stop ∨ e = .slowTick ∨ ∃ bytes, e = .play bytes := by
  cases e with
  | stop => exact .inl rfl
  | slowTick => exact .inr (.inl rfl)
  | play bytes => exact .inr (.inr ⟨bytes, rfl⟩)
  | readRunning | fastTick => exact absurd rfl hne

theorem applyEvent_cursor_ne (hne : (applyEvent e s).seq.cursor ≠ s.seq.cursor) : ∃ bytes, e = .play bytes := by
  cases e with
  | play bytes => exact ⟨bytes, rfl⟩
  | slowTick => exact absurd (slowTick_cursor s) hne
  | stop | readRunning | fastTick => exact absurd rfl hne

theorem applyEvent_remaining_ne (hne : (applyEvent e s).seq.remainingWaitTicks ≠ s.seq.remainingWaitTicks) :
    e = .slowTick := by
  cases e with
  | slowTick => rfl
  | play bytes => exact absurd (play_remaining bytes s) hne
  | stop | readRunning | fastTick => exact absurd rfl hne

theorem applyEvent_valid_ne (hne : (applyEvent e s).seq.baselineValid ≠ s.seq.baselineValid) :
    ∃ bytes, e = .play bytes := by
  cases e with
  | play bytes => exact ⟨bytes, rfl⟩
  | slowTick => exact absurd (slowTick_valid s) hne
  | stop | readRunning | fastTick => exact absurd rfl hne

theorem applyEvent_score_ne (hne : (applyEvent e s).score ≠ s.score) : ∃ bytes, e = .play bytes := by
  cases e with
  | play bytes => exact ⟨bytes, rfl⟩
  | slowTick => exact absurd (slowTick_score s) hne
  | stop | readRunning | fastTick => exact absurd rfl hne

end

/-- A step outside a burst is that of the scheduled event. -/
theorem step_outside_eq {s t : State} (he : s.seq.state ≠ .executingCommands) (h : step s = .next t) :
    t = applyEvent s.nextEvent s.takeEvent := by
  obtain ⟨-, ⟨hb, -⟩ | ⟨hb, -⟩ | ⟨-, ht⟩⟩ := step_cases h
  · exact absurd hb he
  · exact absurd hb he
  · exact ht

/-- Settles O30: taking the event off the schedule writes none of the spec's state, and the event writes what its
row lists. -/
theorem outsideStepsWriteWhatTheMatrixLists : Obligations.OutsideStepsWriteWhatTheMatrixLists := by
  intro s t he h
  obtain rfl := step_outside_eq he h
  rw [← takeEvent_ch s, ← takeEvent_out s, ← takeEvent_seq s, ← takeEvent_score s]
  exact ⟨applyEvent_decrement _ _, fun _ => applyEvent_accumulator_ne, fun _ => applyEvent_active_ne,
    applyEvent_out_ne, applyEvent_state_ne, applyEvent_cursor_ne, applyEvent_remaining_ne, applyEvent_baseline _ _,
    applyEvent_valid_ne, applyEvent_score_ne⟩

/-! The output lines. -/

/-- No step in a burst moves a line (R60). -/
theorem step_burst_out {s t : State} (he : s.seq.state = .executingCommands) (h : step s = .next t) :
    t.out = s.out := by
  obtain ⟨-, ⟨-, c, -, hx⟩ | ⟨-, f, -, rfl⟩ | ⟨hn, -⟩⟩ := step_cases h
  · obtain ⟨f, rfl⟩ | hx := exec_cases hx
    · exact raiseFault_out f s
    · exact hx.out_eq
  · exact raiseFault_out f s
  · exact absurd he hn

/-- A step that moves a line is a fast tick outside a burst. -/
theorem step_out_ne {s t : State} (h : step s = .next t) (hne : t.out ≠ s.out) :
    s.seq.state ≠ .executingCommands ∧ s.nextEvent = .fastTick ∧ t = fastTick s.takeEvent := by
  have he : s.seq.state ≠ .executingCommands := fun he => hne (step_burst_out he h)
  obtain rfl := step_outside_eq he h
  rw [← takeEvent_out s] at hne
  have hev := applyEvent_out_ne hne
  exact ⟨he, hev, by rw [hev]; rfl⟩

/-- A channel underflows where it is active and the `int32` difference is negative (R84). -/
theorem Channel.underflows_iff (c : Channel) :
    c.underflows = true ↔ c.active = true ∧ (c.accumulator - c.decrement).toInt < 0 := by
  simp [Channel.underflows, Channel.phase, BitVec.msb_eq_toInt]

/-- A fast tick that changes a line inverts it, because its channel underflows. -/
theorem fastTick_out_ne {s : State} {i : Fin 4} (hne : (fastTick s).out.get i ≠ s.out.get i) :
    (s.ch.get i).underflows = true ∧ (fastTick s).out.get i = !(s.out.get i) := by
  rw [fastTick_out] at hne ⊢
  cases hu : (s.ch.get i).underflows with
  | false => exact absurd (by rw [hu, Bool.xor_false]) hne
  | true => exact ⟨rfl, Bool.xor_true _⟩

/-- Settles O33: the step is a fast tick, and it toggles the line of a channel that underflows. -/
theorem linesChangeOnlyByAnUnderflow : Obligations.LinesChangeOnlyByAnUnderflow := by
  intro s t i h hne
  obtain ⟨he, hev, rfl⟩ := step_out_ne h fun heq => hne (by rw [heq])
  rw [← takeEvent_out s] at hne
  obtain ⟨hu, hline⟩ := fastTick_out_ne hne
  obtain ⟨hact, hneg⟩ := (Channel.underflows_iff _).mp hu
  rw [takeEvent_ch] at hact hneg
  rw [takeEvent_out] at hline
  exact ⟨he, hev, hact, hneg, hline⟩

end Sys2Proof.Machine
end

section
/-! The family of 20_memory.md: a load reads back (R33, R63), the canonical form of the score space (log entry 10), and
the one writer of the score (R40). -/

namespace Sys2Proof.Machine

/-! A loaded score. -/

/-- The load of a score stores its bytes and nothing past them (R33, R63). -/
@[simp] theorem Memory.ofBytes_read (bs : List Byte) (a : Nat) : (Memory.ofBytes bs).read a = bs[a]? := by
  by_cases ha : a < bs.length
  · have hlookup := Memory.lookup_cellsFrom bs 0 a
    rw [Nat.zero_add] at hlookup
    simp [Memory.read, Memory.ofBytes, ha, hlookup]
  · have hle : bs.length ≤ a := Nat.le_of_not_lt ha
    rw [Memory.read_eq_none.mpr hle, List.getElem?_eq_none hle]

/-- Settles O10. -/
theorem loadedScoreReadsBack : Obligations.LoadedScoreReadsBack := Memory.ofBytes_read

/-! Equal contents are equal data. -/

section
variable {len lo lo' a a' : Nat} {b b' : Byte} {cells cells' : List Host.Cell}

theorem Memory.cellsWf_cons : Memory.cellsWf len lo ((a, b) :: cells) = true ↔
    lo ≤ a ∧ a < len ∧ b ≠ Memory.unlisted ∧ Memory.cellsWf len (a + 1) cells = true := by
  simp [Memory.cellsWf, and_assoc]

@[simp] theorem Memory.lookup_nil (i : Nat) : Memory.lookup [] i = Memory.unlisted := rfl

@[simp] theorem Memory.lookup_cons_self : Memory.lookup ((a, b) :: cells) a = b := if_pos rfl

theorem Memory.lookup_cons_ne {i : Nat} (h : a ≠ i) : Memory.lookup ((a, b) :: cells) i = Memory.lookup cells i :=
  if_neg h

/-- Below `len`, a list of cells in canonical form starts no later than another that it agrees with: the other's first
cell holds a byte that no offset before the start of this one reads as. -/
theorem Memory.head_le_of_lookup_eq (h : Memory.cellsWf len lo ((a, b) :: cells) = true)
    (h' : Memory.cellsWf len lo' ((a', b') :: cells') = true)
    (heq : ∀ i < len, Memory.lookup ((a, b) :: cells) i = Memory.lookup ((a', b') :: cells') i) : a ≤ a' := by
  obtain ⟨-, hlt', hne', -⟩ := Memory.cellsWf_cons.mp h'
  obtain ⟨-, hlt, hne, hcells⟩ := Memory.cellsWf_cons.mp h
  have hfrom : Memory.cellsWf len a ((a, b) :: cells) = true :=
    Memory.cellsWf_cons.mpr ⟨Nat.le_refl a, hlt, hne, hcells⟩
  by_contra hle
  have hread := heq a' hlt'
  rw [Memory.lookup_below hfrom (Nat.lt_of_not_le hle), Memory.lookup_cons_self] at hread
  exact hne' hread.symm

/-- In canonical form the bytes below `len` determine the cells. -/
theorem Memory.cells_eq_of_lookup_eq (h : Memory.cellsWf len lo cells = true)
    (h' : Memory.cellsWf len lo' cells' = true)
    (heq : ∀ i < len, Memory.lookup cells i = Memory.lookup cells' i) : cells = cells' := by
  induction cells generalizing lo lo' cells' with
  | nil =>
    cases cells' with
    | nil => rfl
    | cons c' cells' =>
      obtain ⟨a', b'⟩ := c'
      obtain ⟨-, hlt', hne', -⟩ := Memory.cellsWf_cons.mp h'
      exact absurd (by simpa using (heq a' hlt').symm) hne'
  | cons c cells ih =>
    obtain ⟨a, b⟩ := c
    obtain ⟨-, hlt, hne, hcells⟩ := Memory.cellsWf_cons.mp h
    cases cells' with
    | nil => exact absurd (by simpa using heq a hlt) hne
    | cons c' cells' =>
      obtain ⟨a', b'⟩ := c'
      obtain ⟨-, -, -, hcells'⟩ := Memory.cellsWf_cons.mp h'
      obtain rfl : a = a' := Nat.le_antisymm (Memory.head_le_of_lookup_eq h h' heq)
        (Memory.head_le_of_lookup_eq h' h fun i hi => (heq i hi).symm)
      obtain rfl : b = b' := by simpa using heq a hlt
      have htail : ∀ i < len, Memory.lookup cells i = Memory.lookup cells' i := by
        intro i hi
        by_cases hia : i < a + 1
        · rw [Memory.lookup_below hcells hia, Memory.lookup_below hcells' hia]
        · have hai : a ≠ i := by omega
          simpa only [Memory.lookup_cons_ne hai] using heq i hi
      rw [ih hcells hcells' htail]

end

theorem Memory.read_of_lt {m : Memory} {i : Nat} (h : i < m.len) : m.read i = some (Memory.lookup m.cells i) :=
  if_pos h

/-- Settles O11: equal reads are equal lookups below the common length, and these determine the cells. -/
theorem equalScoresAreEqualData : Obligations.EqualScoresAreEqualData := by
  rintro ⟨cells, len⟩ ⟨cells', _⟩ hm hn rfl hread
  have hlookup : ∀ i < len, Memory.lookup cells i = Memory.lookup cells' i := by
    intro i hi
    have hri := hread i
    rw [Memory.read_of_lt hi, Memory.read_of_lt hi] at hri
    exact Option.some.inj hri
  obtain rfl : cells = cells' := Memory.cells_eq_of_lookup_eq hm hn hlookup
  rfl

/-! The one writer of the score. -/

/-- No step in a burst writes the score: a fault writes the record only, and no command writes it (R40). -/
theorem step_burst_score {s t : State} (he : s.seq.state = .executingCommands) (h : step s = .next t) :
    t.score = s.score := by
  obtain ⟨-, ⟨-, c, -, hx⟩ | ⟨-, f, -, rfl⟩ | ⟨hn, -⟩⟩ := step_cases h
  · obtain ⟨f, rfl⟩ | hx := exec_cases hx
    · exact raiseFault_score f s
    · exact hx.score_eq
  · exact raiseFault_score f s
  · exact absurd he hn

/-- A `Play` that changes the score does not fault: it loads its bytes (R63, R98). -/
theorem play_score_of_ne {bytes : List Byte} {s : State} (hne : (play bytes s).score ≠ s.score) :
    (play bytes s).score = Memory.ofBytes bytes := by
  obtain ⟨-, hfault⟩ | ⟨-, hscore, -⟩ := play_cases bytes s
  · exact absurd (by rw [hfault, raiseFault_score]) hne
  · exact hscore

/-- A step that changes the score is a `Play` outside a burst, and leaves the score that it loads. -/
theorem step_score_ne {s t : State} (h : step s = .next t) (hne : t.score ≠ s.score) :
    s.seq.state ≠ .executingCommands ∧ ∃ bytes, s.nextEvent = .play bytes ∧ t.score = Memory.ofBytes bytes := by
  have he : s.seq.state ≠ .executingCommands := fun he => hne (step_burst_score he h)
  obtain rfl := step_outside_eq he h
  rw [← takeEvent_score s] at hne
  obtain ⟨bytes, hev⟩ := applyEvent_score_ne hne
  rw [hev] at hne ⊢
  exact ⟨he, bytes, rfl, play_score_of_ne hne⟩

/-- Settles O12: the score that the `Play` loads reads as its bytes. -/
theorem onlyPlayChangesTheScore : Obligations.OnlyPlayChangesTheScore := by
  intro s t h hchange
  have hne : t.score ≠ s.score := by
    intro heq
    obtain hlen | ⟨a, hread⟩ := hchange
    · exact hlen (by rw [heq])
    · exact hread (by rw [heq])
  obtain ⟨he, bytes, hev, hscore⟩ := step_score_ne h hne
  rw [hscore]
  exact ⟨he, bytes, hev, Memory.ofBytes_len bytes, Memory.ofBytes_read bytes⟩

end Sys2Proof.Machine
end

section
/-! The family of 30_encoding.md: the opcode map (R51, R53, R54), the decoder and the encoder as inverses (R46, R52), the
operand fields (R47 to R50), and the assembler (R58). -/

namespace Sys2Proof.Machine

/-! A bit string as its leading bits and a field. -/

section
variable {k w : Nat}

theorem toNat_append_eq (p : BitVec k) (x : BitVec w) : (p ++ x).toNat = p.toNat * 2 ^ w + x.toNat := by
  rw [BitVec.toNat_append, ← Nat.shiftLeft_add_eq_or_of_lt x.isLt, Nat.shiftLeft_eq]

theorem exists_eq_append {p : BitVec k} {b : BitVec (k + w)} (h : b.toNat / 2 ^ w = p.toNat) :
    ∃ x : BitVec w, b = p ++ x := by
  refine ⟨b.extractLsb' 0 w, BitVec.eq_of_toNat_eq ?_⟩
  rw [toNat_append_eq, ← h, BitVec.extractLsb'_toNat, Nat.shiftRight_zero, Nat.div_add_mod']

end

section
variable (b : Byte)

theorem bit7_eq_zero_iff : b.extractLsb' 7 1 = 0b0#1 ↔ b.toNat < 0x80 := by
  have hb := b.isLt
  rw [← BitVec.toNat_inj, BitVec.extractLsb'_toNat, Nat.shiftRight_eq_div_pow, BitVec.toNat_ofNat]
  omega

theorem topBits_eq_iff : b.extractLsb' 6 2 = 0b11#2 ↔ 0xC0 ≤ b.toNat := by
  have hb := b.isLt
  rw [← BitVec.toNat_inj, BitVec.extractLsb'_toNat, Nat.shiftRight_eq_div_pow, BitVec.toNat_ofNat]
  omega

theorem highNibble_toNat : (highNibble b).toNat = b.toNat / 16 := by
  have hb := b.isLt
  rw [highNibble, BitVec.extractLsb'_toNat, Nat.shiftRight_eq_div_pow]
  omega

theorem lowNibble_toNat : (lowNibble b).toNat = b.toNat % 16 := by
  rw [lowNibble, BitVec.extractLsb'_toNat, Nat.shiftRight_zero]

theorem highNibble_eq_iff (h : BitVec 4) : highNibble b = h ↔ b.toNat / 16 = h.toNat := by
  rw [← BitVec.toNat_inj, highNibble_toNat]

theorem byte_eq_iff (n : Nat) : b = BitVec.ofNat 8 n ↔ b.toNat = n % 256 := by
  rw [← BitVec.toNat_inj, BitVec.toNat_ofNat]

end

/-! The opcode map. -/

/-- The rows of the opcode map (R53): the six kinds of first byte, each its leading bits and its field (R46), and the
illegal bytes. The lemma `firstByte` says that no byte is left out. -/
inductive FirstByte : Byte → Prop
  | waitabs (hi : BitVec 7) : FirstByte (0b0#1 ++ hi : BitVec (1 + 7))
  | stopnote (mask : BitVec 4) : FirstByte (0b1000#4 ++ mask : BitVec (4 + 4))
  | playnote (mask : BitVec 4) : FirstByte (0b1001#4 ++ mask : BitVec (4 + 4))
  | restart : FirstByte 0xA0#8
  | stop : FirstByte 0xB0#8
  | waitrel (delta : BitVec 6) : FirstByte (0b11#2 ++ delta : BitVec (2 + 6))
  | illegal {b0 : Byte} (h : IllegalFirstByte b0) : FirstByte b0

section
variable {b0 : Byte}

theorem exists_waitabs_byte (h : b0.toNat < 0x80) : ∃ hi : BitVec 7, b0 = (0b0#1 ++ hi : BitVec (1 + 7)) :=
  exists_eq_append (k := 1) (by rw [BitVec.toNat_ofNat]; omega)

theorem exists_stopnote_byte (h : 0x80 ≤ b0.toNat) (h' : b0.toNat ≤ 0x8F) :
    ∃ mask : BitVec 4, b0 = (0b1000#4 ++ mask : BitVec (4 + 4)) :=
  exists_eq_append (k := 4) (by rw [BitVec.toNat_ofNat]; omega)

theorem exists_playnote_byte (h : 0x90 ≤ b0.toNat) (h' : b0.toNat ≤ 0x9F) :
    ∃ mask : BitVec 4, b0 = (0b1001#4 ++ mask : BitVec (4 + 4)) :=
  exists_eq_append (k := 4) (by rw [BitVec.toNat_ofNat]; omega)

theorem exists_waitrel_byte (h : 0xC0 ≤ b0.toNat) :
    ∃ delta : BitVec 6, b0 = (0b11#2 ++ delta : BitVec (2 + 6)) :=
  have hb := b0.isLt
  exists_eq_append (k := 2) (by rw [BitVec.toNat_ofNat]; omega)

end

theorem firstByte (b0 : Byte) : FirstByte b0 := by
  have hrange : b0.toNat < 0x80 ∨ (0x80 ≤ b0.toNat ∧ b0.toNat ≤ 0x8F) ∨ (0x90 ≤ b0.toNat ∧ b0.toNat ≤ 0x9F) ∨
      b0.toNat = 0xA0 ∨ b0.toNat = 0xB0 ∨ 0xC0 ≤ b0.toNat ∨ IllegalFirstByte b0 := by
    unfold IllegalFirstByte
    omega
  obtain h | ⟨h, h'⟩ | ⟨h, h'⟩ | h | h | h | h := hrange
  · obtain ⟨hi, rfl⟩ := exists_waitabs_byte h
    exact .waitabs hi
  · obtain ⟨mask, rfl⟩ := exists_stopnote_byte h h'
    exact .stopnote mask
  · obtain ⟨mask, rfl⟩ := exists_playnote_byte h h'
    exact .playnote mask
  · obtain rfl : b0 = 0xA0#8 := BitVec.eq_of_toNat_eq h
    exact .restart
  · obtain rfl : b0 = 0xB0#8 := BitVec.eq_of_toNat_eq h
    exact .stop
  · obtain ⟨delta, rfl⟩ := exists_waitrel_byte h
    exact .waitrel delta
  · exact .illegal h

/-! What each kind of first byte selects: its number, its field, what the decoder does with it, and its length. -/

section
variable (hi : BitVec 7) (mask : BitVec 4) (delta : BitVec 6) {b0 : Byte} (b1 : Byte) (bs : List Byte)

@[simp] theorem waitabs_byte_toNat : (0b0#1 ++ hi : BitVec (1 + 7)).toNat = hi.toNat := by
  rw [toNat_append_eq, BitVec.toNat_ofNat, Nat.zero_mod, Nat.zero_mul, Nat.zero_add]

@[simp] theorem stopnote_byte_toNat : (0b1000#4 ++ mask : BitVec (4 + 4)).toNat = 0x80 + mask.toNat :=
  toNat_append_eq ..

@[simp] theorem playnote_byte_toNat : (0b1001#4 ++ mask : BitVec (4 + 4)).toNat = 0x90 + mask.toNat :=
  toNat_append_eq ..

@[simp] theorem waitrel_byte_toNat : (0b11#2 ++ delta : BitVec (2 + 6)).toNat = 0xC0 + delta.toNat :=
  toNat_append_eq ..

@[simp] theorem waitabs_byte_field : BitVec.extractLsb' (n := 8) 0 7 (0b0#1 ++ hi : BitVec (1 + 7)) = hi :=
  BitVec.extractLsb'_append_eq_right

@[simp] theorem waitrel_byte_field : BitVec.extractLsb' (n := 8) 0 6 (0b11#2 ++ delta : BitVec (2 + 6)) = delta :=
  BitVec.extractLsb'_append_eq_right

@[simp] theorem decode_nil : decode [] = .error (.overrun 0) := rfl

@[simp] theorem decode_waitabs_cut : decode [(0b0#1 ++ hi : BitVec (1 + 7))] = .error (.overrun 1) := by
  simp (disch := omega) only [decode, bit7_eq_zero_iff, waitabs_byte_toNat, if_pos]

@[simp] theorem decode_waitabs : decode ((0b0#1 ++ hi : BitVec (1 + 7)) :: b1 :: bs) =
    .ok (.waitabs (hi ++ b1 : BitVec (7 + 8)), bs) := by
  simp (disch := omega) only [decode, bit7_eq_zero_iff, waitabs_byte_toNat, if_pos, waitabs_byte_field]

@[simp] theorem decode_stopnote : decode ((0b1000#4 ++ mask : BitVec (4 + 4)) :: bs) = .ok (.stopnote mask, bs) := by
  simp (disch := omega) only [decode, bit7_eq_zero_iff, highNibble_eq_iff, BitVec.toNat_ofNat, stopnote_byte_toNat,
    if_neg, if_pos, lowNibble_append]

@[simp] theorem decode_playnote : decode ((0b1001#4 ++ mask : BitVec (4 + 4)) :: bs) =
    if popcount mask ≤ bs.length then .ok (.playnote mask (bs.take (popcount mask)), bs.drop (popcount mask))
    else .error (.overrun (1 + bs.length)) := by
  simp (disch := omega) only [decode, bit7_eq_zero_iff, highNibble_eq_iff, BitVec.toNat_ofNat, playnote_byte_toNat,
    if_neg, if_pos, lowNibble_append]

@[simp] theorem decode_restart : decode (0xA0#8 :: bs) = .ok (.restart, bs) := rfl

@[simp] theorem decode_stop : decode (0xB0#8 :: bs) = .ok (.stop, bs) := rfl

@[simp] theorem decode_waitrel : decode ((0b11#2 ++ delta : BitVec (2 + 6)) :: bs) = .ok (.waitrel delta, bs) := by
  simp (disch := omega) only [decode, bit7_eq_zero_iff, highNibble_eq_iff, topBits_eq_iff, byte_eq_iff,
    BitVec.toNat_ofNat, waitrel_byte_toNat, if_neg, if_pos, waitrel_byte_field]

theorem decode_illegal (h : IllegalFirstByte b0) : decode (b0 :: bs) = .error (.illegalOpcode b0) := by
  unfold IllegalFirstByte at h
  simp (disch := omega) only [decode, bit7_eq_zero_iff, highNibble_eq_iff, topBits_eq_iff, byte_eq_iff,
    BitVec.toNat_ofNat, if_neg]

@[simp] theorem firstByteLength_waitabs : firstByteLength (0b0#1 ++ hi : BitVec (1 + 7)) = some 2 := by
  simp (disch := omega) only [firstByteLength, bit7_eq_zero_iff, waitabs_byte_toNat, if_pos]

@[simp] theorem firstByteLength_stopnote : firstByteLength (0b1000#4 ++ mask : BitVec (4 + 4)) = some 1 := by
  simp (disch := omega) only [firstByteLength, bit7_eq_zero_iff, highNibble_eq_iff, BitVec.toNat_ofNat,
    stopnote_byte_toNat, if_neg, if_pos]

@[simp] theorem firstByteLength_playnote :
    firstByteLength (0b1001#4 ++ mask : BitVec (4 + 4)) = some (1 + popcount mask) := by
  simp (disch := omega) only [firstByteLength, bit7_eq_zero_iff, highNibble_eq_iff, BitVec.toNat_ofNat,
    playnote_byte_toNat, if_neg, if_pos, lowNibble_append]

@[simp] theorem firstByteLength_restart : firstByteLength 0xA0#8 = some 1 := rfl

@[simp] theorem firstByteLength_stop : firstByteLength 0xB0#8 = some 1 := rfl

@[simp] theorem firstByteLength_waitrel : firstByteLength (0b11#2 ++ delta : BitVec (2 + 6)) = some 1 := by
  simp (disch := omega) only [firstByteLength, bit7_eq_zero_iff, highNibble_eq_iff, topBits_eq_iff, byte_eq_iff,
    BitVec.toNat_ofNat, waitrel_byte_toNat, if_neg, if_pos]

theorem firstByteLength_illegal (h : IllegalFirstByte b0) : firstByteLength b0 = none := by
  unfold IllegalFirstByte at h
  simp (disch := omega) only [firstByteLength, bit7_eq_zero_iff, highNibble_eq_iff, topBits_eq_iff, byte_eq_iff,
    BitVec.toNat_ofNat, if_neg]

end

/-- The bytes without a length are the illegal ones (R51, R54). -/
theorem firstByteLength_eq_none {b0 : Byte} : firstByteLength b0 = none ↔ IllegalFirstByte b0 := by
  refine ⟨fun h => ?_, firstByteLength_illegal⟩
  cases firstByte b0 with
  | illegal hill => exact hill
  | _ => simp at h

/-! The encoder, and the decoder as its inverse. -/

@[simp] theorem wellFormed_playnote {mask : BitVec 4} {pitches : List Byte} :
    (Instr.playnote mask pitches).wellFormed = true ↔ pitches.length = popcount mask := beq_iff_eq

theorem encode_length {i : Instr} (h : i.wellFormed = true) : (encode i).length = i.length := by
  have hlength : Laws.EncodeLength.Statement i := by
    cases i with
    | waitabs value => exact Laws.EncodeLength.waitabs value
    | stopnote mask => exact Laws.EncodeLength.stopnote mask
    | playnote mask pitches => exact Laws.EncodeLength.playnote mask pitches
    | restart => exact Laws.EncodeLength.restart
    | stop => exact Laws.EncodeLength.stop
    | waitrel delta => exact Laws.EncodeLength.waitrel delta
  exact (hlength h).1

@[simp] theorem value_fields_append (value : BitVec 15) :
    (value.extractLsb' 8 7 ++ value.extractLsb' 0 8 : BitVec (7 + 8)) = value :=
  (BitVec.extractLsb'_append_extractLsb'_eq_extractLsb' rfl).trans BitVec.extractLsb'_eq_self

theorem encode_waitabs_append (hi : BitVec 7) (lo : Byte) :
    encode (.waitabs (hi ++ lo : BitVec (7 + 8))) = [(0b0#1 ++ hi : BitVec (1 + 7)), lo] :=
  congrArg₂ (fun (h : BitVec 7) (l : Byte) => [(0b0#1 ++ h : BitVec (1 + 7)), l])
    BitVec.extractLsb'_append_eq_left BitVec.extractLsb'_append_eq_right

/-- Settles O1: the decoder reads each kind of first byte back. -/
theorem decodeOfEncodeIsTheInstruction : Obligations.DecodeOfEncodeIsTheInstruction := by
  intro i rest h
  cases i with
  | waitabs value => simp [encode]
  | stopnote mask => exact decode_stopnote mask rest
  | playnote mask pitches =>
    have hlen := wellFormed_playnote.mp h
    simp [encode, ← hlen]
  | restart => exact decode_restart rest
  | stop => exact decode_stop rest
  | waitrel delta => exact decode_waitrel delta rest

/-- Everything the decoder can do with a first byte and the bytes after it: reject it as illegal, miss a byte of the
command it selects, or read one command (R52). -/
theorem decode_cases (b0 : Byte) (bs : List Byte) :
    (firstByteLength b0 = none ∧ decode (b0 :: bs) = .error (.illegalOpcode b0)) ∨
    (∃ n, firstByteLength b0 = some n ∧ (b0 :: bs).length < n ∧
      decode (b0 :: bs) = .error (.overrun (b0 :: bs).length)) ∨
    (∃ i rest, firstByteLength b0 = some i.length ∧ i.wellFormed = true ∧ b0 :: bs = encode i ++ rest ∧
      decode (b0 :: bs) = .ok (i, rest)) := by
  cases firstByte b0 with
  | waitabs hi =>
    cases bs with
    | nil => exact .inr (.inl ⟨2, firstByteLength_waitabs hi, Nat.one_lt_two, decode_waitabs_cut hi⟩)
    | cons b1 bs =>
      exact .inr (.inr ⟨.waitabs (hi ++ b1 : BitVec (7 + 8)), bs, firstByteLength_waitabs hi, rfl,
        by rw [encode_waitabs_append]; rfl, decode_waitabs hi b1 bs⟩)
  | stopnote mask =>
    exact .inr (.inr ⟨.stopnote mask, bs, firstByteLength_stopnote mask, rfl, rfl, decode_stopnote mask bs⟩)
  | playnote mask =>
    by_cases hlen : popcount mask ≤ bs.length
    · exact .inr (.inr ⟨.playnote mask (bs.take (popcount mask)), bs.drop (popcount mask),
        firstByteLength_playnote mask, by simpa using hlen, by simp [encode],
        by rw [decode_playnote, if_pos hlen]⟩)
    · exact .inr (.inl ⟨1 + popcount mask, firstByteLength_playnote mask, by rw [List.length_cons]; omega,
        by rw [decode_playnote, if_neg hlen, List.length_cons, Nat.add_comm]⟩)
  | restart => exact .inr (.inr ⟨.restart, bs, rfl, rfl, rfl, rfl⟩)
  | stop => exact .inr (.inr ⟨.stop, bs, rfl, rfl, rfl, rfl⟩)
  | waitrel delta =>
    exact .inr (.inr ⟨.waitrel delta, bs, firstByteLength_waitrel delta, rfl, rfl, decode_waitrel delta bs⟩)
  | illegal h => exact .inl ⟨firstByteLength_illegal h, decode_illegal bs h⟩

/-- What decodes is well formed, as long as its first byte selects, and encoded by the bytes read. -/
theorem decode_cons_eq_ok {b0 : Byte} {bs rest : List Byte} {i : Instr} (h : decode (b0 :: bs) = .ok (i, rest)) :
    firstByteLength b0 = some i.length ∧ i.wellFormed = true ∧ b0 :: bs = encode i ++ rest := by
  obtain ⟨-, he⟩ | ⟨n, -, -, he⟩ | ⟨j, tail, hlen, hwf, hbytes, he⟩ := decode_cases b0 bs
  · cases he.symm.trans h
  · cases he.symm.trans h
  · cases he.symm.trans h
    exact ⟨hlen, hwf, hbytes⟩

/-- Settles O2. -/
theorem decodedBytesAreTheEncoding : Obligations.DecodedBytesAreTheEncoding := by
  intro bs i rest h
  cases bs with
  | nil => cases h
  | cons b0 bs => exact (decode_cons_eq_ok h).2

/-- Settles O3: the decoder names the first byte exactly where that byte selects no length. -/
theorem illegalFirstBytesAreRejected : Obligations.IllegalFirstBytesAreRejected := by
  intro b0 bs b
  rw [← firstByteLength_eq_none]
  obtain ⟨hlen, he⟩ | ⟨n, hlen, -, he⟩ | ⟨i, rest, hlen, -, -, he⟩ := decode_cases b0 bs
  · simp [he, hlen, eq_comm]
  · simp [he, hlen]
  · simp [he, hlen]

/-- Settles O4: a command that is read is as long as its first byte selects, so no byte of it is missing. -/
theorem truncatedCommandsAreRejected : Obligations.TruncatedCommandsAreRejected := by
  intro bs k
  cases bs with
  | nil => simp [eq_comm]
  | cons b0 bs =>
    obtain ⟨hlen, he⟩ | ⟨n, hlen, hlt, he⟩ | ⟨i, rest, hlen, hwf, hbytes, he⟩ := decode_cases b0 bs
    · simp [he, hlen]
    · rw [List.length_cons] at hlt
      simp [he, hlen, hlt, eq_comm]
    · have hle : i.length ≤ (b0 :: bs).length := by
        rw [hbytes, List.length_append, encode_length hwf]
        exact Nat.le_add_right ..
      rw [List.length_cons] at hle
      simp [he, hlen, hle]

/-- Settles O5. -/
theorem lengthIsDecidedByTheFirstByte : Obligations.LengthIsDecidedByTheFirstByte := by
  refine ⟨fun b0 bs i rest h => ?_, fun b0 => ⟨fun h => ?_, fun h h' => ?_, fun h h' => ?_, ?_, fun h => ?_,
    firstByteLength_illegal⟩⟩
  · obtain ⟨hlen, hwf, hbytes⟩ := decode_cons_eq_ok h
    rw [hbytes, ← encode_length hwf, List.drop_left]
    exact ⟨by rw [hlen, encode_length hwf], rfl⟩
  · obtain ⟨hi, rfl⟩ := exists_waitabs_byte h
    exact firstByteLength_waitabs hi
  · obtain ⟨mask, rfl⟩ := exists_stopnote_byte h h'
    exact firstByteLength_stopnote mask
  · obtain ⟨mask, rfl⟩ := exists_playnote_byte h h'
    rw [firstByteLength_playnote, ← lowNibble, lowNibble_append]
  · rintro (h | h)
    · obtain rfl := (byte_eq_iff b0 0xA0).mpr h
      exact firstByteLength_restart
    · obtain rfl := (byte_eq_iff b0 0xB0).mpr h
      exact firstByteLength_stop
  · obtain ⟨delta, rfl⟩ := exists_waitrel_byte h
    exact firstByteLength_waitrel delta

/-! The operand fields. -/

theorem waitabs_value_toNat (hi : BitVec 7) (lo : Byte) :
    (hi ++ lo : BitVec (7 + 8)).toNat = hi.toNat * 256 + lo.toNat := toNat_append_eq ..

/-- Format R's field, a 6-bit two's-complement number, on its first byte (R50). -/
theorem waitrel_delta_toInt (delta : BitVec 6) :
    delta.toInt = if 0xC0 + delta.toNat ≤ 0xDF then ((0xC0 + delta.toNat : Nat) : Int) - 0xC0
      else ((0xC0 + delta.toNat : Nat) : Int) - 0x100 := by
  rw [BitVec.toInt_eq_toNat_cond]
  split <;> split <;> omega

/-- Settles O7. -/
theorem waitOperandsAreReadFromTheirFields : Obligations.WaitOperandsAreReadFromTheirFields := by
  refine ⟨fun b0 b1 rest h => ?_, fun b0 rest h => ?_⟩
  · obtain ⟨hi, rfl⟩ := exists_waitabs_byte h
    exact ⟨hi ++ b1, decode_waitabs hi b1 rest, by rw [waitabs_value_toNat, waitabs_byte_toNat]⟩
  · obtain ⟨delta, rfl⟩ := exists_waitrel_byte h
    exact ⟨delta, decode_waitrel delta rest, by rw [waitrel_byte_toNat, waitrel_delta_toInt]⟩

theorem selects_eq_testBit (mask : BitVec 4) (i : Nat) : selects mask i = mask.toNat.testBit i := rfl

/-- A pitch byte's place, as a count of channels (R48). -/
theorem rank_eq_card : ∀ (mask : BitVec 4) (i : Fin 4),
    rank mask i = (Finset.univ.filter fun j : Fin 4 => j < i ∧ selects mask j = true).card := by
  decide

theorem popcount_eq_card : ∀ mask : BitVec 4,
    popcount mask = (Finset.univ.filter fun i : Fin 4 => selects mask i = true).card := by
  decide

/-- The mask is the low four bits of a format M byte (R47). -/
theorem playnote_byte_testBit (mask : BitVec 4) (i : Fin 4) :
    (0b1001#4 ++ mask : BitVec (4 + 4)).toNat.testBit i = selects mask i := by
  rw [BitVec.testBit_toNat, BitVec.getLsbD_append, if_pos i.isLt, selects]

/-- Settles O8. -/
theorem noteOperandsAreReadFromTheirFields : Obligations.NoteOperandsAreReadFromTheirFields := by
  refine ⟨fun b0 rest h h' => ?_, fun b0 pitches rest h h' hlen => ?_,
    fun m i => ⟨selects_eq_testBit m i, rank_eq_card m i⟩, fun p => ⟨highNibble_toNat p, lowNibble_toNat p⟩⟩
  · obtain ⟨mask, rfl⟩ := exists_stopnote_byte h h'
    exact ⟨mask, decode_stopnote mask rest, by rw [stopnote_byte_toNat, Nat.add_sub_cancel_left]⟩
  · obtain ⟨mask, rfl⟩ := exists_playnote_byte h h'
    simp only [playnote_byte_testBit, ← popcount_eq_card] at hlen
    exact ⟨mask, decodeOfEncodeIsTheInstruction (.playnote mask pitches) rest (wellFormed_playnote.mpr hlen),
      by rw [playnote_byte_toNat, Nat.add_sub_cancel_left]⟩

/-! The assembler. -/

theorem stopnote_byte_ofNat {m : Nat} (h : m ≤ 15) :
    (0b1000#4 ++ BitVec.ofNat 4 m : BitVec (4 + 4)) = BitVec.ofNat 8 (0x80 + m) := by
  apply BitVec.eq_of_toNat_eq
  rw [stopnote_byte_toNat, BitVec.toNat_ofNat, BitVec.toNat_ofNat]
  omega

theorem playnote_byte_ofNat {m : Nat} (h : m ≤ 15) :
    (0b1001#4 ++ BitVec.ofNat 4 m : BitVec (4 + 4)) = BitVec.ofNat 8 (0x90 + m) := by
  apply BitVec.eq_of_toNat_eq
  rw [playnote_byte_toNat, BitVec.toNat_ofNat, BitVec.toNat_ofNat]
  omega

theorem waitrel_byte_ofInt (d : Int) :
    (0b11#2 ++ BitVec.ofInt 6 d : BitVec (2 + 6)) = BitVec.ofNat 8 (0xC0 + (d % 64).toNat) := by
  apply BitVec.eq_of_toNat_eq
  rw [waitrel_byte_toNat, BitVec.toNat_ofInt, BitVec.toNat_ofNat]
  omega

theorem encode_waitabs_ofNat {v : Nat} (h : v ≤ 32767) :
    encode (.waitabs (BitVec.ofNat 15 v)) = [BitVec.ofNat 8 (v / 256), BitVec.ofNat 8 (v % 256)] := by
  have hvalue : BitVec.ofNat 15 v = (BitVec.ofNat 7 (v / 256) ++ BitVec.ofNat 8 (v % 256) : BitVec (7 + 8)) := by
    apply BitVec.eq_of_toNat_eq
    rw [waitabs_value_toNat, BitVec.toNat_ofNat, BitVec.toNat_ofNat, BitVec.toNat_ofNat]
    omega
  have hfirst : (0b0#1 ++ BitVec.ofNat 7 (v / 256) : BitVec (1 + 7)) = BitVec.ofNat 8 (v / 256) := by
    apply BitVec.eq_of_toNat_eq
    rw [waitabs_byte_toNat, BitVec.toNat_ofNat, BitVec.toNat_ofNat]
    omega
  rw [hvalue, encode_waitabs_append, hfirst]

theorem assemble_stopnote (m : Nat) : Assembly.assemble (.stopnote m) =
    if m ≤ 15 then some (encode (.stopnote (BitVec.ofNat 4 m))) else none := by
  by_cases h : m ≤ 15 <;> simp [Assembly.assemble, Assembly.toInstr, Assembly.accepted, h]

theorem assemble_playnote (m : Nat) (ps : List Byte) : Assembly.assemble (.playnote m ps) =
    if m ≤ 15 ∧ ps.length = popcount (BitVec.ofNat 4 m) then some (encode (.playnote (BitVec.ofNat 4 m) ps))
    else none := by
  by_cases h : m ≤ 15 ∧ ps.length = popcount (BitVec.ofNat 4 m) <;>
    simp [Assembly.assemble, Assembly.toInstr, Assembly.accepted, h]

theorem assemble_waitabs (v : Nat) : Assembly.assemble (.waitabs v) =
    if v ≤ 32767 then some (encode (.waitabs (BitVec.ofNat 15 v))) else none := by
  by_cases h : v ≤ 32767 <;> simp [Assembly.assemble, Assembly.toInstr, Assembly.accepted, Config.waitAbsMax, h]

theorem assemble_waitrel (d : Int) : Assembly.assemble (.waitrel d) =
    if -32 ≤ d ∧ d ≤ 31 then some (encode (.waitrel (BitVec.ofInt 6 d))) else none := by
  by_cases h : -32 ≤ d ∧ d ≤ 31 <;> simp [Assembly.assemble, Assembly.toInstr, Assembly.accepted, h]

/-- Settles O9: the encoding of an accepted line, with each byte read as a number. -/
theorem assemblerEmitsTheListedBytes : Obligations.AssemblerEmitsTheListedBytes := by
  refine ⟨fun m => ?_, fun m ps => ?_, rfl, rfl, fun v => ?_, fun d => ?_⟩
  · rw [assemble_stopnote]
    exact ite_congr rfl (fun h => by rw [encode, stopnote_byte_ofNat h]) fun _ => rfl
  · rw [assemble_playnote]
    exact ite_congr rfl (fun ⟨h, _⟩ => by rw [encode, playnote_byte_ofNat h]) fun _ => rfl
  · rw [assemble_waitabs]
    exact ite_congr rfl (fun h => by rw [encode_waitabs_ofNat h]) fun _ => rfl
  · rw [assemble_waitrel, encode, waitrel_byte_ofInt]

/-! Concrete words, and a term that no word decodes to. -/

/-- Settles O6. -/
theorem specWordsDecode : Obligations.SpecWordsDecode := by
  unfold Obligations.SpecWordsDecode
  decide

/-- Settles O23. -/
theorem illFormedPlayNoteIsRefused : Obligations.IllFormedPlayNoteIsRefused := by
  intro mask pitches s hne
  obtain ⟨-, h⟩ | ⟨heq, -⟩ | ⟨heq, -⟩ := execPlaynote_cases mask pitches s
  · exact h
  · exact absurd heq hne
  · exact absurd heq hne

end Sys2Proof.Machine
end

section
/-! The family of 40_sequencer_control.md: the wait (R67, R68) and its ratio of fast ticks (R61, R117), the `Dispatch`
step (R52, R70, R92), the exclusion of the agents (R59, R60), the transition table (R71), and the agents' steps outside
a burst (R64 to R67, R72). -/

namespace Sys2Proof.Machine

/-! One step outside a burst. -/

/-- Outside a burst an unfaulted machine takes the step of its next event (R59, R61). -/
theorem step_event {s : State} {e : Event} (hf : s.fault = none) (he : s.seq.state ≠ .executingCommands)
    (hev : s.nextEvent = e) : step s = .next (applyEvent e s.takeEvent) := by
  subst hev
  simp only [step, hf, if_neg he, outsideStep]

/-- The same where the schedule is written down. -/
theorem step_arrival {s : State} {e : Event} {es : List Event} (hf : s.fault = none)
    (he : s.seq.state ≠ .executingCommands) (ha : s.arrivals = e :: es) :
    step s = .next (applyEvent e (s.setArrivals es)) := by
  rw [step_event hf he (nextEvent_cons ha), takeEvent_cons ha]

theorem SameScore.of_eq {s t : State} (h : t.score = s.score) : SameScore s t := by
  simp [SameScore, h]

/-! What the ticks do to the Sequencer. -/

/-- A slow tick in a wait that is not over (R67). -/
theorem slowTick_seq_of_waiting {s : State} (hw : s.seq.state = .waiting) (hr : 1 ≤ s.seq.remainingWaitTicks) :
    (slowTick s).seq = { s.seq with
      remainingWaitTicks := s.seq.remainingWaitTicks - 1
      state := if s.seq.remainingWaitTicks = 1 then .executingCommands else .waiting } := by
  obtain ⟨hn, -⟩ | ⟨-, hle, heq⟩ | ⟨-, hlt, heq⟩ := slowTick_cases s
  · exact absurd hw hn
  · have h1 : s.seq.remainingWaitTicks = 1 := Nat.le_antisymm hle hr
    rw [heq, h1]
    rfl
  · rw [heq, if_neg hlt.ne', ← hw]
    rfl

section
variable {e : Event} {s : State}

/-- A tick that does not end the wait counts it down by one where it is a slow tick, and by nothing where it is a fast
one. -/
theorem applyEvent_tick_seq (htick : IsTick e) (hw : s.seq.state = .waiting)
    (hlt : [e].count .slowTick < s.seq.remainingWaitTicks) :
    (applyEvent e s).seq =
      { s.seq with remainingWaitTicks := s.seq.remainingWaitTicks - [e].count .slowTick } := by
  obtain rfl | rfl := htick
  · rfl
  · have hlt' : 1 < s.seq.remainingWaitTicks := hlt
    have hseq := slowTick_seq_of_waiting hw hlt'.le
    rwa [if_neg hlt'.ne', ← hw] at hseq

theorem applyEvent_tick_arrivals (htick : IsTick e) : (applyEvent e s).arrivals = s.arrivals := by
  obtain rfl | rfl := htick
  · exact fastTick_arrivals s
  · exact slowTick_arrivals s

theorem applyEvent_tick_fault (htick : IsTick e) : (applyEvent e s).fault = s.fault := by
  obtain rfl | rfl := htick
  · exact fastTick_fault s
  · exact slowTick_fault s

end

/-! A run outside a burst, as the events it takes. -/

/-- `Takes s es t`: the steps from `s` take the events `es` one after the other, with no `Dispatch` step among them, and
end in `t`. `runSteps_eq` and `agentSteps_eq` tie it to the model's runs. -/
inductive Takes : State → List Event → State → Prop where
  | nil (s : State) : Takes s [] s
  | cons {s t u : State} {e : Event} {es : List Event} : s.seq.state ≠ .executingCommands → s.nextEvent = e →
      step s = .next t → Takes t es u → Takes s (e :: es) u

section
variable {s t u : State} {es fs : List Event}

theorem Takes.runSteps_eq (h : Takes s es t) : runSteps es.length s = .next t := by
  induction h with
  | nil s => rfl
  | cons he hev hstep _ ih => rw [List.length_cons, runSteps, hstep]; exact ih

theorem Takes.agentSteps_eq (h : Takes s es t) : agentSteps es.length s = es.map some := by
  induction h with
  | nil s => rfl
  | cons he hev hstep _ ih => simp only [List.length_cons, agentSteps, hstep, if_neg he, hev, ih, List.map_cons]

theorem Takes.append (h : Takes s es t) (h' : Takes t fs u) : Takes s (es ++ fs) u := by
  induction h with
  | nil s => exact h'
  | cons he hev hstep _ ih => exact .cons he hev hstep (ih h')

end

/-! The wait. -/

/-- Ticks with fewer slow ones among them than the wait has left only count it down. -/
theorem takes_ticks_waiting {s : State} {ticks rest : List Event} (hf : s.fault = none) (hw : s.seq.state = .waiting)
    (hticks : ∀ e ∈ ticks, IsTick e) (ha : s.arrivals = ticks ++ rest)
    (hlt : ticks.count .slowTick < s.seq.remainingWaitTicks) :
    ∃ t, Takes s ticks t ∧
      t.seq = { s.seq with remainingWaitTicks := s.seq.remainingWaitTicks - ticks.count .slowTick } ∧
      t.arrivals = rest ∧ t.fault = none := by
  induction ticks generalizing s with
  | nil => exact ⟨s, .nil s, rfl, ha, hf⟩
  | cons e es ih =>
    obtain ⟨htick, hticks'⟩ := List.forall_mem_cons.mp hticks
    have hcount : (e :: es).count .slowTick = [e].count .slowTick + es.count .slowTick :=
      List.count_append (l₁ := [e])
    have he : s.seq.state ≠ .executingCommands := by rw [hw]; nofun
    have hseq := applyEvent_tick_seq (s := s.setArrivals (es ++ rest)) htick hw (by
      rw [State.setArrivals_remaining]; omega)
    obtain ⟨t, htake, htseq, htarr, htf⟩ := ih (s := applyEvent e (s.setArrivals (es ++ rest)))
      (by rw [applyEvent_tick_fault htick]; exact hf) (by rw [hseq]; exact hw) hticks'
      (by rw [applyEvent_tick_arrivals htick]; rfl) (by rw [hseq]; show _ < s.seq.remainingWaitTicks - _; omega)
    refine ⟨t, .cons he (nextEvent_cons ha) (step_arrival hf he ha) htake, ?_, htarr, htf⟩
    rw [htseq, hseq, hcount, ← Nat.sub_sub]
    rfl

/-- The slow tick that the wait has left after them starts the burst. -/
theorem takes_last_slowTick {s : State} {ticks rest : List Event} (hf : s.fault = none) (hw : s.seq.state = .waiting)
    (hticks : ∀ e ∈ ticks, IsTick e) (ha : s.arrivals = ticks ++ .slowTick :: rest)
    (hlast : ticks.count .slowTick + 1 = s.seq.remainingWaitTicks) :
    ∃ t, Takes s (ticks ++ [.slowTick]) t ∧
      t.seq = { s.seq with remainingWaitTicks := 0, state := .executingCommands } ∧
      t.arrivals = rest ∧ t.fault = none := by
  obtain ⟨t, htake, htseq, htarr, htf⟩ := takes_ticks_waiting hf hw hticks ha (by omega)
  have hleft : t.seq.remainingWaitTicks = 1 := by rw [htseq]; show s.seq.remainingWaitTicks - _ = 1; omega
  have htw : t.seq.state = .waiting := by rw [htseq]; exact hw
  have hte : t.seq.state ≠ .executingCommands := by rw [htw]; nofun
  have hend := slowTick_seq_of_waiting (s := t.setArrivals rest) htw hleft.ge
  refine ⟨_, htake.append (.cons hte (nextEvent_cons htarr) (step_arrival htf hte htarr) (.nil _)), ?_,
    slowTick_arrivals _, (slowTick_fault _).trans htf⟩
  rw [applyEvent, hend, State.setArrivals_remaining, if_pos hleft, hleft]
  show { t.seq with remainingWaitTicks := 0, state := .executingCommands } = _
  rw [htseq]

/-- Settles O40, by the induction over the schedule in `takes_ticks_waiting`. -/
theorem aWaitLastsExactlyItsTicks : Obligations.AWaitLastsExactlyItsTicks := by
  intro s ticks rest hf hw hticks
  constructor
  · intro ha hlt
    obtain ⟨t, htake, hend⟩ := takes_ticks_waiting hf hw hticks ha hlt
    exact ⟨t, htake.runSteps_eq, hend⟩
  · intro ha hlast
    obtain ⟨t, htake, hend⟩ := takes_last_slowTick hf hw hticks ha hlast
    have hrun := htake.runSteps_eq
    rw [List.length_append] at hrun
    exact ⟨t, hrun, hend⟩

/-! The ratio of fast ticks in a wait. -/

section
variable {held : Nat → Nat} {steps before : List (Option Event)}

/-- The premise on the ratio holds of the later steps, with the intervals counted from there. -/
theorem RatioSchedule.drop (h : RatioSchedule held (before ++ steps)) :
    RatioSchedule (fun j => held (before.count (some .slowTick) + j)) steps := by
  rintro before' between after rfl hn
  have hint := h (before ++ before') between after (by rw [List.append_assoc]) hn
  rwa [List.count_append] at hint

/-- Between the first slow tick and the last, each interval has the ratio's fast ticks, give or take those held. The
induction moves along the steps; `interval` is the part of the first interval behind it. -/
theorem RatioSchedule.count_fastTick {interval : List (Option Event)}
    (h : RatioSchedule held (some .slowTick :: (interval ++ steps ++ [some .slowTick])))
    (hn : some .slowTick ∉ interval) :
    (interval ++ steps).count (some .fastTick) ≤ (steps.count (some .slowTick) + 1) * Config.tickRatio +
      ((List.range (steps.count (some .slowTick) + 1)).map held).sum ∧
    (steps.count (some .slowTick) + 1) * Config.tickRatio ≤ (interval ++ steps).count (some .fastTick) +
      ((List.range (steps.count (some .slowTick) + 1)).map held).sum := by
  induction steps generalizing held interval with
  | nil => simpa using h [] interval [] (by simp) hn
  | cons x steps ih =>
    by_cases hx : x = some .slowTick
    · subst hx
      have hfirst := h [] interval (steps ++ [some .slowTick]) (by simp) hn
      have hrest : RatioSchedule (fun j => held (j + 1)) (some .slowTick :: ([] ++ steps ++ [some .slowTick])) := by
        have hdrop := RatioSchedule.drop (held := held) (before := some .slowTick :: interval)
          (steps := some .slowTick :: (steps ++ [some .slowTick])) (by simpa using h)
        simpa [List.count_eq_zero_of_not_mem hn, Nat.add_comm] using hdrop
      have hlater := ih hrest List.not_mem_nil
      have hheld : ((List.range (steps.count (some .slowTick) + 2)).map held).sum =
          held 0 + ((List.range (steps.count (some .slowTick) + 1)).map fun j => held (j + 1)).sum := by
        rw [List.range_succ_eq_map, List.map_cons, List.sum_cons, List.map_map]
        rfl
      have hcount : (interval ++ some Event.slowTick :: steps).count (some .fastTick) =
          interval.count (some .fastTick) + steps.count (some .fastTick) := by
        simp
      have hratio : (steps.count (some .slowTick) + 2) * Config.tickRatio =
          Config.tickRatio + (steps.count (some .slowTick) + 1) * Config.tickRatio := by
        ring
      rw [List.nil_append] at hlater
      rw [List.count_nil] at hfirst
      rw [List.count_cons_self, hcount, hheld, hratio]
      omega
    · have hmove := ih (held := held) (interval := interval ++ [x]) (by simpa using h)
        (by simpa [eq_comm, hx] using hn)
      rwa [List.append_assoc, List.singleton_append, ← List.count_cons_of_ne hx] at hmove

/-- Where no burst runs, none is held. -/
theorem RatioSchedule.of_no_burst (h : RatioSchedule held steps) (hb : HeldByBursts held steps) (hn : none ∉ steps) :
    RatioSchedule (fun _ => 0) steps := by
  intro _ _ _ hs hslow
  have hexact := h.exact hb hn hs hslow
  exact ⟨hexact.le, hexact.ge⟩

end

/-- Settles O46: the wait is its slow ticks and the ticks between them, and no `Dispatch` step is among them. -/
theorem aWaitSpansItsRatioOfFastTicks : Obligations.AWaitSpansItsRatioOfFastTicks := by
  intro held s between rest hf hw hticks ha hlast hratio
  obtain ⟨t, htake, htseq, htarr, -⟩ := takes_last_slowTick (ticks := .slowTick :: between) hf hw
    (List.forall_mem_cons.mpr ⟨.inr rfl, hticks⟩) ha (by rw [List.count_cons_self]; omega)
  have hrun := htake.runSteps_eq
  have hsteps := htake.agentSteps_eq
  simp only [List.length_append, List.length_cons, List.length_nil, List.map_append, List.map_cons, List.map_nil,
    List.cons_append] at hrun hsteps
  have hslow : (between.map some).count (some Event.slowTick) + 1 = s.seq.remainingWaitTicks - 1 := by
    rw [List.count_map_of_injective _ _ (Option.some_injective _)]; omega
  have hfast : (between.map some).count (some Event.fastTick) = between.count .fastTick :=
    List.count_map_of_injective _ _ (Option.some_injective _) _
  rw [hsteps] at hratio ⊢
  have hbounds := RatioSchedule.count_fastTick (interval := []) hratio List.not_mem_nil
  rw [List.nil_append, hslow, hfast] at hbounds
  refine ⟨t, hrun, by rw [htseq], htarr, hbounds.1, hbounds.2, fun hheld => ?_⟩
  have hexact := RatioSchedule.count_fastTick (interval := []) (hratio.of_no_burst hheld (by simp)) List.not_mem_nil
  rw [List.nil_append, hslow, hfast] at hexact
  simp only [List.map_const', List.sum_replicate, smul_zero, Nat.add_zero] at hexact
  exact Nat.le_antisymm hexact.1 hexact.2

/-! The `Dispatch` step. -/

/-- In a burst an unfaulted machine runs the command that it fetches (R70). -/
theorem step_dispatch {s : State} (hf : s.fault = none) (he : s.seq.state = .executingCommands) :
    step s = dispatchStep s := by
  simp only [step, hf, if_pos he]

/-- Bytes that stand in the score from an offset on begin the window there. -/
theorem Memory.take_window {m : Memory} {c n : Nat} {bs : List Byte} (hlen : bs.length ≤ n)
    (h : ∀ k, k < bs.length → m.read (c + k) = bs[k]?) : (m.window c n).take bs.length = bs := by
  refine List.ext_getElem? fun k => ?_
  by_cases hk : k < bs.length
  · rw [List.getElem?_take_of_lt hk, Memory.window_getElem? m c n k (hk.trans_le hlen), h k hk]
  · have hle : bs.length ≤ k := Nat.le_of_not_lt hk
    rw [List.getElem?_take_eq_none hle, List.getElem?_eq_none hle]

theorem wellFormed_length_le {i : Instr} (h : i.wellFormed = true) : i.length ≤ maxLength := by
  cases i with
  | playnote mask pitches => exact (Laws.EncodeLength.playnote mask pitches h).2
  | waitabs | stopnote | restart | stop | waitrel => simp [Instr.length, maxLength]

/-- The fetch reads the command whose bytes stand at the cursor (R52). -/
theorem fetchDecode_of_read {s : State} {i : Instr} (hwf : i.wellFormed = true)
    (h : ∀ k, k < (encode i).length → s.score.read (s.seq.cursor + k) = (encode i)[k]?) : fetchDecode s = .ok i := by
  have htake := Memory.take_window (n := maxLength) ((encode_length hwf).trans_le (wellFormed_length_le hwf)) h
  rw [fetchDecode, ← List.take_append_drop (encode i).length (s.score.window _ _), htake,
    decodeOfEncodeIsTheInstruction i _ hwf]

/-- Settles O13. -/
theorem stepRunsTheInstructionAtTheCursor : Obligations.StepRunsTheInstructionAtTheCursor := by
  intro s i hf he hwf h
  rw [step_dispatch hf he]
  simp only [dispatchStep, fetchDecode_of_read hwf h]

/-- What the fetch reads is well formed (R52). -/
theorem wellFormed_of_fetchDecode {s : State} {i : Instr} (h : fetchDecode s = .ok i) : i.wellFormed = true := by
  simp only [fetchDecode] at h
  split at h
  · rename_i j rest hdecode
    cases h
    exact (decodedBytesAreTheEncoding _ _ _ hdecode).1
  · cases h

/-- A well-formed command has a next state in every state: its faults are next states, and nothing is refused. -/
theorem exec_wellFormed {i : Instr} (h : i.wellFormed = true) (s : State) : ∃ t, exec i s = .next t := by
  cases i with
  | waitabs v =>
    obtain ⟨-, he⟩ | ⟨-, he⟩ := execWaitabs_cases v s
    · exact ⟨_, he⟩
    · exact ⟨_, he⟩
  | playnote mask pitches =>
    obtain ⟨hne, -⟩ | ⟨-, f, -, he⟩ | ⟨-, ds, -, he⟩ := execPlaynote_cases mask pitches s
    · exact absurd (wellFormed_playnote.mp h) hne
    · exact ⟨_, he⟩
    · exact ⟨_, he⟩
  | waitrel d =>
    obtain ⟨-, he⟩ | ⟨-, -, he⟩ | ⟨-, -, he⟩ := execWaitrel_cases d s
    · exact ⟨_, he⟩
    · exact ⟨_, he⟩
    · exact ⟨_, he⟩
  | stopnote | restart | stop => exact ⟨_, rfl⟩

/-- Settles O17: a fetch that fails raises its fault, and what it reads is well formed. -/
theorem everyUnfaultedStateSteps : Obligations.EveryUnfaultedStateSteps := by
  intro s hf
  by_cases he : s.seq.state = .executingCommands
  · rw [step_dispatch hf he, dispatchStep]
    split
    · rename_i i hi; exact exec_wellFormed (wellFormed_of_fetchDecode hi) s
    · exact ⟨_, rfl⟩
  · exact ⟨_, step_event hf he rfl⟩

/-! The exclusion of the agents. -/

theorem Completes.arrivals_eq {s t : State} {c : Instr} (h : Completes s c t) : t.arrivals = s.arrivals := by
  cases h <;> rfl

/-- No step in a burst takes an event from the schedule (R60). -/
theorem step_burst_arrivals {s t : State} (he : s.seq.state = .executingCommands) (h : step s = .next t) :
    t.arrivals = s.arrivals := by
  obtain ⟨-, ⟨-, c, -, hx⟩ | ⟨-, f, -, rfl⟩ | ⟨hn, -⟩⟩ := step_cases h
  · obtain ⟨f, rfl⟩ | hx := exec_cases hx
    · exact raiseFault_arrivals f s
    · exact hx.arrivals_eq
  · exact raiseFault_arrivals f s
  · exact absurd he hn

/-- R59's column "enabled when". -/
theorem agentEnabled_iff {s : State} (hf : s.fault = none) (a : Agent) :
    agentEnabled a s = true ↔ (a = .dispatch ↔ s.seq.state = .executingCommands) := by
  cases a <;> simp [agentEnabled, hf]

theorem eventAgent_ne_dispatch (e : Event) : eventAgent e ≠ .dispatch := by
  cases e <;> nofun

/-- Settles O32: the agents of the events are those that a burst excludes. -/
theorem onlyDispatchStepsInABurst : Obligations.OnlyDispatchStepsInABurst := by
  refine ⟨fun s a hf => agentEnabled_iff hf a, fun s t he h => ⟨step_burst_arrivals he h, step_burst_out he h⟩,
    fun s t he h => ?_⟩
  obtain ⟨hf, -⟩ := step_cases h
  exact (agentEnabled_iff hf _).mpr (iff_of_false (eventAgent_ne_dispatch _) he)

/-! The transition table. -/

/-- Outside a burst only a `Play` of too large a score faults (R98), and it leaves the Sequencer (R91). -/
theorem applyEvent_seq_of_fault {e : Event} {s : State} (hf : s.fault = none) (hne : (applyEvent e s).fault ≠ none) :
    (applyEvent e s).seq = s.seq := by
  cases e with
  | play bytes =>
    obtain ⟨-, h⟩ | ⟨-, -, -, -, -, hfault, -⟩ := play_cases bytes s
    · rw [applyEvent, h, raiseFault_seq]
    · exact absurd (hfault.trans hf) hne
  | slowTick => exact absurd ((slowTick_fault s).trans hf) hne
  | stop | readRunning | fastTick => exact absurd hf hne

/-- A step that faults leaves the Sequencer (R91). -/
theorem step_seq_of_fault {s t : State} (h : step s = .next t) (hne : t.fault ≠ none) : t.seq = s.seq := by
  obtain ⟨hf, ⟨-, c, -, hx⟩ | ⟨-, f, -, rfl⟩ | ⟨-, rfl⟩⟩ := step_cases h
  · obtain ⟨f, rfl⟩ | hx := exec_cases hx
    · exact raiseFault_seq f s
    · exact absurd (hx.fault_eq.trans hf) hne
  · exact raiseFault_seq f s
  · exact (applyEvent_seq_of_fault ((takeEvent_fault s).trans hf) hne).trans (takeEvent_seq s)

/-- A step in a burst that does not fault is that of a command that completes. -/
theorem step_burst_completes {s t : State} (h : step s = .next t) (htf : t.fault = none)
    (he : s.seq.state = .executingCommands) : ∃ c, fetchDecode s = .ok c ∧ Completes s c t := by
  obtain ⟨-, ⟨-, c, hc, hx⟩ | ⟨-, f, -, rfl⟩ | ⟨hn, -⟩⟩ := step_cases h
  · obtain ⟨f, rfl⟩ | hx := exec_cases hx
    · cases htf
    · exact ⟨c, hc, hx⟩
  · cases htf
  · exact absurd he hn

/-- A `Play` that does not fault starts a burst, and its score fits the buffer (R63, R98). -/
theorem play_state {bytes : List Byte} {s : State} (hf : (play bytes s).fault = none) :
    (play bytes s).seq.state = .executingCommands ∧ bytes.length ≤ Config.scoreCapacity := by
  obtain ⟨-, h⟩ | ⟨hle, -, hseq, -⟩ := play_cases bytes s
  · rw [h] at hf; cases hf
  · exact ⟨by rw [hseq], hle⟩

theorem slowTick_state (s : State) :
    (slowTick s).seq.state = if s.seq.state = .waiting ∧ s.seq.remainingWaitTicks - 1 = 0 then .executingCommands
      else s.seq.state := by
  obtain ⟨hn, h⟩ | ⟨hw, hle, h⟩ | ⟨-, hlt, h⟩ := slowTick_cases s
  · rw [h, if_neg fun hand => hn hand.1]
  · rw [h, if_pos ⟨hw, by omega⟩]; rfl
  · rw [h, if_neg fun hand => by omega]; rfl

/-- Settles O31: a row of the table for each command that completes, and one for each event. -/
theorem sequencerStateFollowsTheTable : Obligations.SequencerStateFollowsTheTable := by
  intro s t h
  refine ⟨fun hne => by rw [step_seq_of_fault h hne], fun htf he => ?_, fun htf he => ?_⟩
  · obtain ⟨c, hc, hx⟩ := step_burst_completes h htf he
    refine ⟨c, hc, ?_⟩
    cases hx with
    | waitabs v hv => exact ⟨rfl, Nat.one_le_iff_ne_zero.mpr hv⟩
    | waitrel d _ hpos => exact ⟨rfl, by rw [enterWaiting_remaining]; omega⟩
    | stop => rfl
    | stopnote | playnote | restart => exact he
  · obtain rfl := step_outside_eq he h
    rw [← takeEvent_seq s]
    generalize s.nextEvent = e at htf ⊢
    cases e with
    | play bytes => exact play_state htf
    | slowTick => exact slowTick_state _
    | stop | readRunning | fastTick => rfl

/-! The slow tick, `Stop()`, the read of `running`, and the ticks in a final state. -/

/-- Settles O39. -/
theorem slowTickCountsTheWaitDown : Obligations.SlowTickCountsTheWaitDown := by
  intro s hf he hev
  refine ⟨_, step_event hf he hev, ?_⟩
  rw [applyEvent, slowTick_ch, slowTick_out, slowTick_fault, takeEvent_ch, takeEvent_out, takeEvent_fault,
    ← takeEvent_seq s]
  refine ⟨fun hw hr => slowTick_seq_of_waiting hw hr, fun hstop => ?_, fun _ => rfl, rfl, SameScore.of_eq (by simp), hf⟩
  rw [slowTick_eq_self (by rw [hstop]; nofun)]

theorem stopTransition_seq (s : State) : (stopTransition s).seq = { s.seq with state := .stopped } := rfl

theorem Channel.deactivate_eq_self {c : Channel} (h : c.active = false) : c.deactivate = c := by
  rw [Channel.deactivate, ← h]

/-- Settles O43: in `Stopped` the invariant has every channel inactive already (R65). -/
theorem stopCallStopsAndIsIdempotent : Obligations.StopCallStopsAndIsIdempotent := by
  intro s hf he hev
  refine ⟨_, step_event hf he hev, ?_⟩
  rw [applyEvent, stopCall, stopTransition_seq, takeEvent_seq, stopTransition_out, takeEvent_out, stopTransition_fault,
    takeEvent_fault, ← takeEvent_ch s]
  refine ⟨stopTransition_ch _, rfl, rfl, SameScore.of_eq (by simp), hf, fun hinv hstop => ⟨?_, by rw [← hstop]⟩⟩
  refine Four.ext_get fun i => (stopTransition_ch _ i).trans (Channel.deactivate_eq_self ?_)
  rw [takeEvent_ch]
  exact hinv.stopped hstop i

theorem running_iff (s : State) : s.running = true ↔ s.seq.state ≠ .stopped := by
  simp [State.running]

/-- Settles O44. -/
theorem readingRunningChangesNothing : Obligations.ReadingRunningChangesNothing := by
  intro s hf he hev
  exact ⟨running_iff s, s.takeEvent, step_event hf he hev, takeEvent_ch s, takeEvent_out s, takeEvent_seq s,
    SameScore.of_eq (takeEvent_score s), (takeEvent_fault s).trans hf⟩

/-- Settles O45: in `Stopped` the invariant has every channel inactive, so the ticks do nothing. -/
theorem finalStatesStayUnderTicks : Obligations.FinalStatesStayUnderTicks := by
  intro s hinv hfinal htick
  obtain ⟨hf, hstop⟩ := hfinal
  have hstep := step_event hf (by rw [hstop]; nofun) rfl
  rw [applyEvent_tick_eq_self (by simpa using hinv.stopped hstop) (by rw [takeEvent_seq, hstop]; nofun) htick] at hstep
  exact ⟨s.takeEvent, hstep, takeEvent_ch s, takeEvent_out s, takeEvent_seq s, SameScore.of_eq (takeEvent_score s),
    (takeEvent_fault s).trans hf, by rw [takeEvent_seq, hstop]⟩

end Sys2Proof.Machine
end

section
/-! The family of 41_sequencer_commands.md: what each of the six commands does (R74 to R79) and which faults it raises
(R95 to R97), and that relative waits do not drift (R80). -/

namespace Sys2Proof.Machine

/-! What a command that completes answers, and what it leaves alone. -/

section
variable {s t : State} {c : Instr}

/-- The converse of `exec_cases`: a command that completes answers the state that it leaves. -/
theorem Completes.exec_eq (h : Completes s c t) : exec c s = .next t := by
  cases h with
  | waitabs v hv => simp only [exec, execWaitabs, if_neg hv]
  | playnote m ps ds hlen hds => simp only [exec, execPlaynote, if_pos hlen, hds]
  | waitrel d hvalid hpos =>
    simp only [exec, execWaitrel, hvalid, Bool.true_eq_false, if_false, if_neg (Int.not_le.mpr hpos)]
  | stopnote | restart | stop => rfl

theorem Completes.sameScore (h : Completes s c t) : SameScore s t := SameScore.of_eq h.score_eq

/-- Only `Stop` draws a free value, that of the cursor it leaves (R77, log entry 5). -/
theorem Completes.draws_eq (h : Completes s c t) (hc : c ≠ .stop) : t.draws = s.draws := by
  cases h with
  | stop => exact absurd rfl hc
  | waitabs | stopnote | playnote | restart | waitrel => rfl

/-- A command other than `Stop` that completes writes the channels and the Sequencer at most. -/
theorem Completes.frame (h : Completes s c t) (hc : c ≠ .stop) :
    t.out = s.out ∧ SameScore s t ∧ t.fault = s.fault ∧ t.arrivals = s.arrivals ∧ t.draws = s.draws :=
  ⟨h.out_eq, h.sameScore, h.fault_eq, h.arrivals_eq, h.draws_eq hc⟩

end

/-! The pitch lookup, one equation per case of R82. -/

section
variable {p : Byte}

theorem noteDecrement_of_pitchOk (h : PitchOk p) :
    ∃ d, noteDecrement p = .ok d ∧
      d.toNat = Config.baseTable.entry ⟨semitoneClass p, h.1⟩ / 2 ^ (9 - octaveIndex p) := by
  obtain ⟨hs, ho⟩ := h
  refine ⟨_, by rw [noteDecrement, dif_pos hs, if_pos ho], ?_⟩
  have hbound : Config.baseTable.entry ⟨semitoneClass p, hs⟩ / 2 ^ (9 - octaveIndex p) ≤ 4194304 :=
    (Nat.div_le_self _ _).trans (Config.baseTable.bound _)
  rw [BitVec.toNat_ofNat, Nat.shiftRight_eq_div_pow, octaveShift, Nat.mod_eq_of_lt (by omega)]

/-- The semitone check is first, whatever the octave (R82). -/
theorem noteDecrement_of_semitone (h : 12 ≤ semitoneClass p) : noteDecrement p = .error (.semitoneOutOfRange p) := by
  rw [noteDecrement, dif_neg (Nat.not_lt.mpr h)]

theorem noteDecrement_of_octave (h : semitoneClass p < 12) (h' : 10 ≤ octaveIndex p) :
    noteDecrement p = .error (.octaveOutOfRange p) := by
  rw [noteDecrement, dif_pos h, if_neg (Nat.not_lt.mpr h')]

end

/-! The pitch bytes of a `PlayNote`, in ascending channel order (R48). -/

theorem noteDecrements_of_pitchOk {ps : List Byte} (h : ∀ p ∈ ps, PitchOk p) : ∃ ds, noteDecrements ps = .ok ds := by
  induction ps with
  | nil => exact ⟨[], rfl⟩
  | cons p ps ih =>
    obtain ⟨hp, hps⟩ := List.forall_mem_cons.mp h
    obtain ⟨d, hd, -⟩ := noteDecrement_of_pitchOk hp
    obtain ⟨ds, hds⟩ := ih hps
    exact ⟨d :: ds, by simp only [noteDecrements, hd, hds]⟩

/-- The first bad pitch byte decides the fault, whatever stands after it (R95, R99). -/
theorem noteDecrements_of_first_bad {good rest : List Byte} {p : Byte} {f : Fault} (hgood : ∀ q ∈ good, PitchOk q)
    (hp : noteDecrement p = .error f) : noteDecrements (good ++ p :: rest) = .error f := by
  induction good with
  | nil => simp only [List.nil_append, noteDecrements, hp]
  | cons q good ih =>
    obtain ⟨hq, hgood⟩ := List.forall_mem_cons.mp hgood
    obtain ⟨d, hd, -⟩ := noteDecrement_of_pitchOk hq
    simp only [List.cons_append, noteDecrements, hd, ih hgood]

/-- A selected channel has a pitch byte, and the decrement that it is started with is the lookup's for that byte. -/
theorem noteDecrement_of_selects {mask : BitVec 4} {i : Fin 4} {ps : List Byte} {ds : List Word}
    (hlen : ps.length = popcount mask) (hds : noteDecrements ps = .ok ds) (hi : selects mask i = true) :
    ∃ p, ps[rank mask i]? = some p ∧ noteDecrement p = .ok (ds.getD (rank mask i) 0) := by
  have hlt : rank mask i < ps.length := (rank_lt_popcount mask i hi).trans_eq hlen.symm
  have hp := List.getElem?_eq_getElem hlt
  obtain ⟨d, hd, hdec⟩ := noteDecrements_getElem? hds hp
  exact ⟨_, hp, by rw [List.getD_eq_getElem?_getD, hd, Option.getD_some, hdec]⟩

theorem exec_playnote_of_bad {mask : BitVec 4} {good rest : List Byte} {p : Byte} {f : Fault} {s : State}
    (hlen : (good ++ p :: rest).length = popcount mask) (hgood : ∀ q ∈ good, PitchOk q)
    (hp : noteDecrement p = .error f) : exec (.playnote mask (good ++ p :: rest)) s = .next (raiseFault f s) := by
  simp only [exec, execPlaynote, if_pos hlen, noteDecrements_of_first_bad hgood hp]

/-- Settles O22: the checks pass and the channels are written, or the first bad pitch byte decides. -/
theorem playNoteStartsTheSelected : Obligations.PlayNoteStartsTheSelected := by
  refine ⟨fun mask ps s hlen hok => ⟨⟨_, rfl, playnote_byte_toNat mask⟩, ?_⟩,
    fun mask good rest p s hlen hgood => ⟨fun hs => ?_, fun hs ho => ?_⟩⟩
  · obtain ⟨ds, hds⟩ := noteDecrements_of_pitchOk hok
    have hx := Completes.playnote (s := s) mask ps ds hlen hds
    refine ⟨_, hx.exec_eq, fun i hi => ?_, fun i hi => ?_, rfl, hx.frame nofun⟩
    · obtain ⟨p, hp, hdec⟩ := noteDecrement_of_selects hlen hds hi
      have hpok := hok p (List.mem_of_getElem? hp)
      obtain ⟨d, hd, hval⟩ := noteDecrement_of_pitchOk hpok
      cases hdec.symm.trans hd
      rw [State.setCursor_ch, State.setCh_ch, mapSelected_get, if_pos hi]
      exact ⟨p, hp, hpok.1, hval, rfl, rfl⟩
    · rw [State.setCursor_ch, State.setCh_ch, mapSelected_get, hi, if_neg Bool.false_ne_true]
  · exact exec_playnote_of_bad hlen hgood (noteDecrement_of_semitone hs)
  · exact exec_playnote_of_bad hlen hgood (noteDecrement_of_octave hs ho)

/-! The relative wait. -/

/-- The wait that a `WaitRelative` loads is the sum of R79 itself. -/
theorem enterWaiting_relativeWait {s : State} {d : BitVec 6} (h : 0 < relativeWait s d) (len : Nat) :
    ((enterWaiting (relativeWait s d).toNat len s).seq.remainingWaitTicks : Int) = s.seq.waitBaseline + d.toInt :=
  Int.toNat_of_nonneg h.le

section
variable {s : State} {d : BitVec 6}

/-- The baseline's check is first, whatever the sum (R97). -/
theorem exec_waitrel_of_unset (h : s.seq.baselineValid = false) :
    exec (.waitrel d) s = .next (raiseFault (.baselineUnset s.seq.cursor) s) := by
  simp only [exec, execWaitrel, if_pos h]

theorem exec_waitrel_of_nonPositive (h : s.seq.baselineValid = true) (hle : relativeWait s d ≤ 0) :
    exec (.waitrel d) s = .next (raiseFault (.nonPositiveWait s.seq.cursor (relativeWait s d)) s) := by
  simp only [exec, execWaitrel, h, Bool.true_eq_false, if_false, if_pos hle]

end

/-- Settles O27: it completes where both checks pass, and each check that does not raises its own fault. -/
theorem waitRelativeLoadsTheSum : Obligations.WaitRelativeLoadsTheSum := by
  refine ⟨fun d => ⟨_, rfl, waitrel_byte_toNat d⟩, fun d s hvalid hpos => ?_, fun d s hvalid hle => ?_,
    fun d s hvalid => ?_⟩
  · have hx := Completes.waitrel (s := s) d hvalid hpos
    exact ⟨_, hx.exec_eq, enterWaiting_relativeWait hpos 1, rfl, fun _ => rfl, hx.frame nofun⟩
  · exact exec_waitrel_of_nonPositive hvalid hle
  · exact exec_waitrel_of_unset hvalid

/-- A completing command that changes the baseline is a `WaitAbsolute`, and the baseline is its value (R23). -/
theorem Completes.baseline_eq_of_ne {s t : State} {c : Instr} (h : Completes s c t)
    (hne : t.seq.waitBaseline ≠ s.seq.waitBaseline) : ∃ v, c = .waitabs v ∧ t.seq.waitBaseline = v.toNat := by
  obtain ⟨v, rfl⟩ := h.baseline_ne hne
  cases h
  exact ⟨v, rfl, rfl⟩

/-- Only a step in a burst writes the baseline (R30). -/
theorem step_outside_baseline {s t : State} (he : s.seq.state ≠ .executingCommands) (h : step s = .next t) :
    t.seq.waitBaseline = s.seq.waitBaseline := by
  rw [step_outside_eq he h, applyEvent_baseline, takeEvent_seq]

/-- Settles O28: a step that writes the baseline neither faults nor is outside a burst, so a command completes. -/
theorem relativeWaitsDoNotDrift : Obligations.RelativeWaitsDoNotDrift := by
  refine ⟨fun s t h hne => ?_, fun s t d he hc h htf => ?_⟩
  · have he : s.seq.state = .executingCommands := Decidable.by_contra fun he => hne (step_outside_baseline he h)
    have htf : t.fault = none := Decidable.by_contra fun hf => hne (by rw [step_seq_of_fault h hf])
    obtain ⟨c, hc, hx⟩ := step_burst_completes h htf he
    obtain ⟨v, rfl, hv⟩ := hx.baseline_eq_of_ne hne
    exact ⟨he, v, hc, hv⟩
  · obtain ⟨c, hc', hx⟩ := step_burst_completes h htf he
    cases hc.symm.trans hc'
    cases hx with
    | waitrel _ _ hpos => exact ⟨enterWaiting_relativeWait hpos 1, rfl⟩

/-! The other four commands. -/

/-- Settles O21. -/
theorem stopNoteDeactivatesTheSelected : Obligations.StopNoteDeactivatesTheSelected := by
  intro mask s
  have hx := Completes.stopnote (s := s) mask
  refine ⟨⟨_, rfl, stopnote_byte_toNat mask⟩, _, hx.exec_eq, fun i hi => ?_, fun i hi => ?_, rfl, hx.frame nofun⟩
  · rw [State.setCursor_ch, State.setCh_ch, mapSelected_get, if_pos hi, Channel.deactivate]
  · rw [State.setCursor_ch, State.setCh_ch, mapSelected_get, hi, if_neg Bool.false_ne_true]

/-- Settles O24. -/
theorem restartWritesTheCursorOnly : Obligations.RestartWritesTheCursorOnly :=
  ⟨rfl, fun s =>
    have hx := Completes.restart (s := s)
    ⟨_, hx.exec_eq, rfl, fun _ => rfl, hx.frame nofun⟩⟩

/-- Settles O25: the command is the Stop transition, and the cursor is left out. -/
theorem stopEndsPlayback : Obligations.StopEndsPlayback :=
  ⟨rfl, fun s =>
    have hx := Completes.stop (s := s)
    ⟨_, hx.exec_eq, stopTransition_ch s, rfl, rfl, hx.out_eq, hx.sameScore, hx.fault_eq, hx.arrivals_eq⟩⟩

theorem exec_waitabs_of_zero {v : BitVec 15} {s : State} (h : v.toNat = 0) :
    exec (.waitabs v) s = .next (raiseFault (.nonPositiveWait s.seq.cursor 0) s) := by
  simp only [exec, execWaitabs, if_pos h]

/-- Settles O26. -/
theorem waitAbsoluteLoadsTheWait : Obligations.WaitAbsoluteLoadsTheWait := by
  refine ⟨fun v => ⟨_, _, rfl, ?_⟩, fun v s hv => ?_, fun v s hv => ?_⟩
  · rw [waitabs_byte_toNat, ← waitabs_value_toNat, value_fields_append]
  · have hx := Completes.waitabs (s := s) v (Nat.one_le_iff_ne_zero.mp hv)
    exact ⟨_, hx.exec_eq, rfl, rfl, fun _ => rfl, hx.frame nofun⟩
  · exact exec_waitabs_of_zero hv

end Sys2Proof.Machine
end

section
/-! The family of 42_tone_engine.md: the pitch lookup (R81 to R83), the fast tick of one channel (R84 to R87), the
toggle law (R88) and its long-run rate (R89), and the invariant that every step keeps. -/

namespace Sys2Proof.Machine

/-! The pitch lookup. -/

/-- Settles O37: one equation per case of R82, and the shifted entry's bounds. -/
theorem pitchLookupFollowsTheTable : Obligations.PitchLookupFollowsTheTable := by
  intro p
  refine ⟨noteDecrement_of_semitone, noteDecrement_of_octave, fun hs ho => ?_⟩
  obtain ⟨d, hd, hval⟩ := noteDecrement_of_pitchOk ⟨hs, ho⟩
  exact ⟨d, hd, hval, hval.trans_le (Nat.div_le_self _ _), noteDecrement_le hd⟩

section
variable (o c : BitVec 4)
@[simp] theorem octaveIndex_append : octaveIndex (o ++ c : BitVec (4 + 4)) = o.toNat := by
  rw [octaveIndex, highNibble_append]
@[simp] theorem semitoneClass_append : semitoneClass (o ++ c : BitVec (4 + 4)) = c.toNat := by
  rw [semitoneClass, lowNibble_append]
end

/-- The lookup of the pitch byte with octave `o` and semitone class `c`. -/
theorem noteDecrement_append {o c : BitVec 4} (ho : o.toNat < 10) (hc : c.toNat < 12) :
    ∃ d, noteDecrement (o ++ c : BitVec (4 + 4)) = .ok d ∧
      d.toNat = Config.baseTable.entry ⟨c.toNat, hc⟩ / 2 ^ (9 - o.toNat) := by
  have hok : PitchOk (o ++ c : BitVec (4 + 4)) := by simpa [PitchOk] using ⟨hc, ho⟩
  simpa using noteDecrement_of_pitchOk hok

/-- The lookup answers a decrement only where both checks pass (R82). -/
theorem pitchOk_of_noteDecrement {p : Byte} {d : Word} (h : noteDecrement p = .ok d) : PitchOk p := by
  by_contra hbad
  by_cases hs : semitoneClass p < 12
  · have ho : 10 ≤ octaveIndex p := Nat.le_of_not_lt fun ho => hbad ⟨hs, ho⟩
    cases (noteDecrement_of_octave hs ho).symm.trans h
  · cases (noteDecrement_of_semitone (Nat.le_of_not_lt hs)).symm.trans h

theorem noteDecrement_append_ok {o c : BitVec 4} {d : Word} (h : noteDecrement (o ++ c : BitVec (4 + 4)) = .ok d) :
    ∃ hc : c.toNat < 12, d.toNat = Config.baseTable.entry ⟨c.toNat, hc⟩ / 2 ^ (9 - o.toNat) := by
  have hok := pitchOk_of_noteDecrement h
  obtain ⟨hc, ho⟩ : c.toNat < 12 ∧ o.toNat < 10 := by simpa [PitchOk] using hok
  obtain ⟨d', hd', hval⟩ := noteDecrement_append ho hc
  cases h.symm.trans hd'
  exact ⟨hc, hval⟩

/-- Settles O38: the table does not fall, and the octave below shifts its entry by one place more. -/
theorem pitchLookupIsMonotoneAndHalves : Obligations.PitchLookupIsMonotoneAndHalves := by
  refine ⟨fun o c c' d d' hle hd hd' => ?_, fun o c ho hc => ?_⟩
  · obtain ⟨hc, hval⟩ := noteDecrement_append_ok hd
    obtain ⟨hc', hval'⟩ := noteDecrement_append_ok hd'
    rw [hval, hval']
    exact Nat.div_le_div_right (Config.baseTable.mono ⟨_, hc⟩ ⟨_, hc'⟩ hle)
  · have hup : (o + 1).toNat = o.toNat + 1 := by bv_omega
    obtain ⟨d, hd, hval⟩ := noteDecrement_append (o := o) (by omega) hc
    obtain ⟨d', hd', hval'⟩ := noteDecrement_append (o := o + 1) (by omega) hc
    refine ⟨d, d', hd, hd', ?_⟩
    have hshift : 9 - o.toNat = (9 - (o + 1).toNat) + 1 := by omega
    rw [hval, hval', hshift, pow_succ, Nat.div_div_eq_div_mul]

/-! The fast tick of one channel. -/

section
variable {c : Channel}

theorem Channel.advance_of_underflows (h : c.underflows = true) :
    c.advance.accumulator = c.accumulator - c.decrement + 4194304#32 := by
  obtain ⟨hact, hneg⟩ : c.active = true ∧ c.phase.msb = true := by simpa [Channel.underflows] using h
  rw [Channel.advance, if_pos hact, hneg, if_pos rfl]
  rfl

theorem Channel.advance_of_not_underflows (hact : c.active = true) (h : c.underflows = false) :
    c.advance.accumulator = c.accumulator - c.decrement := by
  have hneg : c.phase.msb = false := by simpa [Channel.underflows, hact] using h
  rw [Channel.advance, if_pos hact, hneg, if_neg Bool.false_ne_true]
  rfl

theorem Channel.inRange_of_inactive (h : c.active = false) : c.InRange := by
  intro hact
  rw [h] at hact
  cases hact

/-- A channel at `RESTART` with a decrement up to it is in range (R86). -/
theorem Channel.inRange_of_restart (hacc : c.accumulator.toInt = Config.RESTART)
    (hdec : c.decrement.toNat ≤ Config.RESTART) : c.InRange := by
  intro _
  rw [hacc]
  exact ⟨Int.natCast_nonneg _, le_rfl, hdec⟩

/-- In range the `int32` difference is the mathematical one (R85). -/
theorem Channel.InRange.toInt_sub (h : c.InRange) (hact : c.active = true) :
    (c.accumulator - c.decrement).toInt = c.accumulator.toInt - c.decrement.toNat := by
  obtain ⟨hlo, hhi, hdec⟩ := h hact
  simp only [Config.RESTART] at hhi hdec
  rw [BitVec.toInt_sub, BitVec.toInt_eq_toNat_of_lt (x := c.decrement) (by omega), Int.bmod_eq_of_le] <;> omega

theorem Channel.InRange.underflows_iff (h : c.InRange) (hact : c.active = true) :
    c.underflows = true ↔ c.accumulator.toInt < c.decrement.toNat := by
  rw [Channel.underflows_iff, h.toInt_sub hact]
  simp [hact]

/-- In range a tick of an active channel subtracts the decrement and adds `RESTART` for its toggle, in mathematical
integers (R85, R86). -/
theorem Channel.InRange.advance_toInt (h : c.InRange) (hact : c.active = true) :
    c.advance.accumulator.toInt =
      c.accumulator.toInt - c.decrement.toNat + Config.RESTART * (c.underflows.toNat : Int) := by
  obtain ⟨hlo, hhi, hdec⟩ := h hact
  have hsub := h.toInt_sub hact
  have hiff := h.underflows_iff hact
  simp only [Config.RESTART] at hhi hdec ⊢
  cases hu : c.underflows with
  | false => rw [Channel.advance_of_not_underflows hact hu, hsub, Bool.toNat_false, Nat.cast_zero, mul_zero, add_zero]
  | true =>
    have hlt := hiff.mp hu
    have hrestart : (4194304#32).toInt = 4194304 := by decide
    rw [Channel.advance_of_underflows hu, BitVec.toInt_add, hsub, hrestart, Bool.toNat_true,
      Int.bmod_eq_of_le (by omega) (by omega)]
    norm_num

/-- R86: a tick keeps a channel in range, since it adds `RESTART` exactly where the difference falls below 0. -/
theorem Channel.InRange.advance (h : c.InRange) : c.advance.InRange := by
  intro hact
  rw [Channel.advance_active] at hact
  obtain ⟨hlo, hhi, hdec⟩ := h hact
  have hiff := h.underflows_iff hact
  rw [Channel.advance_decrement, h.advance_toInt hact]
  cases hu : c.underflows with
  | false =>
    have hge := hiff.not.mp (Bool.eq_false_iff.mp hu)
    rw [Bool.toNat_false]
    omega
  | true =>
    have hlt := hiff.mp hu
    rw [Bool.toNat_true]
    omega

end

/-- Settles O34: taking the tick off the schedule leaves channels and lines, and each channel steps by itself. -/
theorem fastTickStepsActiveChannels : Obligations.FastTickStepsActiveChannels := by
  intro s hf he hev
  refine ⟨_, step_event hf he hev, ?_⟩
  rw [applyEvent, fastTick_seq, fastTick_fault, takeEvent_seq, takeEvent_fault]
  simp only [fastTick_ch, fastTick_out, takeEvent_ch, takeEvent_out]
  refine ⟨fun i hact => ⟨Channel.advance_decrement _, (Channel.advance_active _).trans hact, ?_⟩,
    fun i hact hin => ?_, fun i hact => ?_, trivial, SameScore.of_eq (by simp), hf⟩
  · have hiff := Channel.underflows_iff (s.ch.get i)
    cases hu : (s.ch.get i).underflows with
    | false =>
      rw [if_neg fun hneg => Bool.eq_false_iff.mp hu (hiff.mpr ⟨hact, hneg⟩),
        Channel.advance_of_not_underflows hact hu]
      exact ⟨rfl, Bool.xor_false _⟩
    | true =>
      rw [if_pos (hiff.mp hu).2, Channel.advance_of_underflows hu]
      exact ⟨rfl, Bool.xor_true _⟩
  · have hiff := hin.underflows_iff hact
    have hacc := hin.advance_toInt hact
    cases hu : (s.ch.get i).underflows with
    | false =>
      rw [if_neg fun hneg => Bool.eq_false_iff.mp hu (hiff.mpr (sub_neg.mp hneg)), hacc, hu]
      exact ⟨by simp, Bool.xor_false _⟩
    | true =>
      rw [if_pos (sub_neg.mpr (hiff.mp hu)), hacc, hu]
      exact ⟨by simp [Config.RESTART], Bool.xor_true _⟩
  · rw [Channel.advance_inactive hact, Channel.underflows_inactive hact]
    exact ⟨rfl, Bool.xor_false _⟩

/-! The toggles of one channel under successive fast ticks. -/

section
variable (i : Fin 4) (s : State) (n : Nat)

theorem togglesIn_succ : togglesIn i s (n + 1) =
    togglesIn i s n + ((fastTick^[n] s).ch.get i).underflows.toNat := rfl

theorem fastTicks_ch_succ : (fastTick^[n + 1] s).ch.get i = ((fastTick^[n] s).ch.get i).advance := by
  rw [Function.iterate_succ_apply', fastTick_ch]

@[simp] theorem fastTicks_decrement : ((fastTick^[n] s).ch.get i).decrement = (s.ch.get i).decrement := by
  induction n with
  | zero => rfl
  | succ n ih => rw [fastTicks_ch_succ, Channel.advance_decrement, ih]

@[simp] theorem fastTicks_active : ((fastTick^[n] s).ch.get i).active = (s.ch.get i).active := by
  induction n with
  | zero => rfl
  | succ n ih => rw [fastTicks_ch_succ, Channel.advance_active, ih]

/-- The line is inverted once for each toggle (R18). -/
theorem fastTicks_out : (fastTick^[n] s).out.get i = ((s.out.get i) ^^ decide (togglesIn i s n % 2 = 1)) := by
  induction n with
  | zero => simp [togglesIn]
  | succ n ih =>
    rw [Function.iterate_succ_apply', fastTick_out, ih, togglesIn_succ, Bool.xor_assoc]
    cases ((fastTick^[n] s).ch.get i).underflows with
    | false => simp
    | true =>
      have hodd : decide ((togglesIn i s n + 1) % 2 = 1) = !decide (togglesIn i s n % 2 = 1) := by
        rw [← decide_not]
        exact decide_eq_decide.mpr (by omega)
      rw [Bool.toNat_true, hodd, Bool.xor_true, Bool.xor_not]
end

section
variable {i : Fin 4} {s : State}

theorem Channel.InRange.fastTicks (h : (s.ch.get i).InRange) (n : Nat) : ((fastTick^[n] s).ch.get i).InRange := by
  induction n with
  | zero => exact h
  | succ n ih => rw [fastTicks_ch_succ]; exact ih.advance

/-- Each tick takes the decrement from the accumulator and each toggle adds `RESTART` to it (R84). -/
theorem fastTicks_accumulator (h : (s.ch.get i).InRange) (hact : (s.ch.get i).active = true) (n : Nat) :
    ((fastTick^[n] s).ch.get i).accumulator.toInt = (s.ch.get i).accumulator.toInt +
      (Config.RESTART : Int) * togglesIn i s n - n * (s.ch.get i).decrement.toNat := by
  induction n with
  | zero => simp [togglesIn]
  | succ n ih =>
    rw [fastTicks_ch_succ, (h.fastTicks n).advance_toInt (by rw [fastTicks_active, hact]), ih, togglesIn_succ,
      fastTicks_decrement]
    push_cast
    ring

/-- After a toggle the accumulator stays below `RESTART`: the toggle adds `RESTART` to a negative number. -/
theorem fastTicks_accumulator_lt (h : (s.ch.get i).InRange) (hact : (s.ch.get i).active = true) (n : Nat) :
    togglesIn i s n = 0 ∨ ((fastTick^[n] s).ch.get i).accumulator.toInt < Config.RESTART := by
  induction n with
  | zero => exact .inl rfl
  | succ n ih =>
    have hin := h.fastTicks n
    have hactn := (fastTicks_active i s n).trans hact
    rw [fastTicks_ch_succ, hin.advance_toInt hactn, togglesIn_succ]
    cases hu : ((fastTick^[n] s).ch.get i).underflows with
    | false =>
      rw [Bool.toNat_false]
      omega
    | true =>
      have hneg := (hin.underflows_iff hactn).mp hu
      rw [Bool.toNat_true]
      omega
end

/-- The toggle law of R88 as a pair of bounds: `T` is the number of whole `RESTART`s strictly below `n * d`, and 0 where
there is none. -/
theorem toggleLaw_eq_iff {d n T : Nat} : toggleLaw d n = T ↔
    n * d ≤ Config.RESTART * (T + 1) ∧ (T = 0 ∨ Config.RESTART * T < n * d) := by
  simp only [toggleLaw, Config.RESTART]
  omega

section
variable {d : Nat}

theorem toggleLaw_zero (n : Nat) : toggleLaw 0 n = 0 :=
  toggleLaw_eq_iff.mpr ⟨by simp, .inl rfl⟩

/-- The first toggle comes at step `RESTART / d + 1` (R88). -/
theorem toggleLaw_first (hpos : 0 < d) (hd : d ≤ Config.RESTART) :
    toggleLaw d (Config.RESTART / d) = 0 ∧ toggleLaw d (Config.RESTART / d + 1) = 1 := by
  have hle : Config.RESTART / d * d ≤ Config.RESTART := Nat.div_mul_le_self _ _
  have hlt : Config.RESTART < (Config.RESTART / d + 1) * d := Nat.lt_mul_of_div_lt (Nat.lt_succ_self _) hpos
  refine ⟨toggleLaw_eq_iff.mpr ⟨by omega, .inl rfl⟩, toggleLaw_eq_iff.mpr ⟨?_, .inr (by omega)⟩⟩
  rw [Nat.succ_mul]
  omega
end

/-! A started channel. -/

section
variable {i : Fin 4} {s : State} {d : Nat} (hact : (s.ch.get i).active = true)
  (hacc : (s.ch.get i).accumulator.toInt = Config.RESTART) (hdec : (s.ch.get i).decrement.toNat = d)
  (hd : d ≤ Config.RESTART)
include hact hacc hdec hd

/-- R88: the accumulator, which stays from 0 to `RESTART` and below `RESTART` after a toggle, leaves one number of
toggles. -/
theorem togglesIn_eq_toggleLaw (n : Nat) : togglesIn i s n = toggleLaw d n := by
  have hin := Channel.inRange_of_restart hacc (hdec.trans_le hd)
  obtain ⟨hlo, -, -⟩ := hin.fastTicks n ((fastTicks_active i s n).trans hact)
  have hlt := fastTicks_accumulator_lt hin hact n
  rw [fastTicks_accumulator hin hact, hacc, hdec] at hlo hlt
  refine (toggleLaw_eq_iff.mpr ⟨?_, hlt.imp_right fun hlt => ?_⟩).symm
  · zify
    linarith
  · zify
    linarith

end

/-- Settles O35: the count is the toggle law's, and the accumulator and the line follow from the count. -/
theorem toggleScheduleOfAStartedChannel : Obligations.ToggleScheduleOfAStartedChannel := by
  intro s i d hact hacc hdec hd
  have hcount := togglesIn_eq_toggleLaw hact hacc hdec hd
  have hin := Channel.inRange_of_restart hacc (hdec.trans_le hd)
  simp only [← hcount]
  refine ⟨fun n => ⟨trivial, ?_, fastTicks_out i s n⟩, fun hpos => ?_, fun hzero n => ?_⟩
  · rw [fastTicks_accumulator hin hact, hacc, hdec]
    ring
  · simpa only [hcount] using toggleLaw_first hpos hd
  · rw [hcount, hzero, toggleLaw_zero]

/-! The long-run toggle rate. -/

/-- The toggle law in `n` ticks, over `n`, is within one toggle of `d / RESTART`. -/
theorem toggleLaw_div_bounds {d n : Nat} (hn : 0 < n) :
    (d : ℚ) / Config.RESTART - 1 / n ≤ toggleLaw d n / n ∧ (toggleLaw d n / n : ℚ) ≤ d / Config.RESTART := by
  obtain ⟨hup, hlow⟩ := toggleLaw_eq_iff.mp (rfl : toggleLaw d n = toggleLaw d n)
  have hle : Config.RESTART * toggleLaw d n ≤ n * d := by
    obtain hzero | hlt := hlow
    · rw [hzero]
      exact Nat.zero_le _
    · exact hlt.le
  have hnpos : (0 : ℚ) < n := by exact_mod_cast hn
  have hrestart : (0 : ℚ) < Config.RESTART := by norm_num [Config.RESTART]
  constructor
  · have hupq : (n * d : ℚ) ≤ Config.RESTART * (toggleLaw d n + 1) := by exact_mod_cast hup
    rw [sub_le_iff_le_add, ← add_div, div_le_div_iff₀ hrestart hnpos]
    linarith
  · have hleq : (Config.RESTART * toggleLaw d n : ℚ) ≤ n * d := by exact_mod_cast hle
    rw [div_le_div_iff₀ hnpos hrestart]
    linarith

theorem tendsto_toggleLaw_div (d : Nat) :
    Filter.Tendsto (fun n : ℕ => (toggleLaw d n / n : ℚ)) Filter.atTop (nhds (d / Config.RESTART)) := by
  have hlow : Filter.Tendsto (fun n : ℕ => (d : ℚ) / Config.RESTART - 1 / n) Filter.atTop
      (nhds (d / Config.RESTART)) := by
    have hconst := tendsto_const_nhds (x := (d : ℚ) / Config.RESTART) (f := Filter.atTop (α := ℕ))
    simpa using hconst.sub (tendsto_one_div_atTop_nhds_zero_nat (𝕜 := ℚ))
  refine tendsto_of_tendsto_of_tendsto_of_le_of_le' hlow tendsto_const_nhds ?_ ?_
  · filter_upwards [Filter.eventually_gt_atTop 0] with n hn using (toggleLaw_div_bounds hn).1
  · filter_upwards [Filter.eventually_gt_atTop 0] with n hn using (toggleLaw_div_bounds hn).2

/-- Settles O36: the toggles are the law's, and its count over `n` tends to `d / RESTART`. -/
theorem toggleRateIsProportionalToTheDecrement : Obligations.ToggleRateIsProportionalToTheDecrement := by
  intro s i d hact hacc hdec hd
  have hfreq : 2 * squareWaveFrequency d = Config.fastTickRate * (d / Config.RESTART) := by
    rw [squareWaveFrequency]
    ring
  simp only [togglesIn_eq_toggleLaw hact hacc hdec hd, hfreq, mul_div_assoc]
  exact (tendsto_toggleLaw_div d).const_mul _

/-! The invariant: each channel. -/

/-- A note starts in range (R75): at `RESTART`, with a decrement of the lookup. -/
theorem startedChannel_inRange {d : Word} (h : d.toNat ≤ Config.RESTART) : (startedChannel d).InRange := by
  have hacc : (BitVec.ofNat 32 Config.RESTART).toInt = Config.RESTART := by decide
  exact Channel.inRange_of_restart hacc h

/-! The invariant: what a fault and the schedule write is no part of it. -/

/-- The invariant is about the channels, the Sequencer and the score only. -/
theorem State.Inv.congr {s t : State} (h : s.Inv) (hch : t.ch = s.ch) (hseq : t.seq = s.seq)
    (hscore : t.score = s.score) : t.Inv where
  channels := hch ▸ h.channels
  stopped := hch ▸ hseq ▸ h.stopped
  waiting := hseq ▸ h.waiting
  baseline := hseq ▸ h.baseline
  cursor := hseq ▸ hscore ▸ h.cursor
  memory := hscore ▸ h.memory
  capacity := hscore ▸ h.capacity

theorem State.Inv.raiseFault {s : State} (h : s.Inv) (f : Fault) : (raiseFault f s).Inv := h.congr rfl rfl rfl

theorem State.Inv.takeEvent {s : State} (h : s.Inv) : s.takeEvent.Inv :=
  h.congr (takeEvent_ch s) (takeEvent_seq s) (takeEvent_score s)

/-! The invariant: the agents outside a burst. -/

section
variable {s : State}

theorem State.Inv.stopTransition (h : s.Inv) : (stopTransition s).Inv where
  channels i := Channel.inRange_of_inactive (by simp)
  stopped _ i := by simp
  waiting hw := by cases hw
  baseline := h.baseline
  cursor hn := absurd rfl hn
  memory := h.memory
  capacity := h.capacity

/-- Where `Play` does not fault, every channel is inactive: in `Stopped` by the invariant (R65), else by the Stop
transition. -/
theorem State.Inv.play (h : s.Inv) (bytes : List Byte) : (play bytes s).Inv := by
  obtain ⟨-, heq⟩ | ⟨hle, hscore, hseq, hch, -⟩ := play_cases bytes s
  · rw [heq]
    exact h.raiseFault _
  · have hsilent : ∀ i, ((Machine.play bytes s).ch.get i).active = false := by
      intro i
      rw [hch]
      split
      · exact h.stopped ‹_› i
      · rfl
    refine ⟨fun i => Channel.inRange_of_inactive (hsilent i), fun _ => hsilent, fun hw => ?_, fun hv => ?_,
      fun _ => ?_, ?_, ?_⟩
    · rw [hseq] at hw; cases hw
    · rw [hseq] at hv; cases hv
    · rw [hseq]; exact Nat.zero_le _
    · rw [hscore]; exact Memory.ofBytes_wf bytes
    · rw [hscore]; exact hle

theorem State.Inv.fastTick (h : s.Inv) : (fastTick s).Inv where
  channels i := by rw [fastTick_ch]; exact (h.channels i).advance
  stopped hstop i := by rw [fastTick_ch, Channel.advance_active]; exact h.stopped hstop i
  waiting := h.waiting
  baseline := h.baseline
  cursor := h.cursor
  memory := h.memory
  capacity := h.capacity

/-- A wait that goes on has at least one tick left, and one that ends starts a burst at the cursor (R67). -/
theorem State.Inv.slowTick (h : s.Inv) : (slowTick s).Inv := by
  obtain ⟨-, heq⟩ | ⟨hw, -, heq⟩ | ⟨hw, hlt, heq⟩ := slowTick_cases s
  · rwa [heq]
  · rw [heq]
    exact { h with stopped := nofun, waiting := nofun, cursor := fun _ => h.cursor (by rw [hw]; nofun) }
  · rw [heq]
    obtain ⟨-, hmax⟩ := h.waiting hw
    exact { h with waiting := fun _ => ⟨Nat.le_sub_one_of_lt hlt, (Nat.sub_le _ _).trans hmax⟩ }

theorem State.Inv.applyEvent (h : s.Inv) (e : Event) : (applyEvent e s).Inv := by
  cases e with
  | play bytes => exact h.play bytes
  | stop => exact h.stopTransition
  | readRunning => exact h
  | fastTick => exact h.fastTick
  | slowTick => exact h.slowTick

end

/-! The invariant: a command in a burst. -/

theorem decode_of_fetchDecode {s : State} {c : Instr} (h : fetchDecode s = .ok c) :
    ∃ rest, decode (s.score.window s.seq.cursor maxLength) = .ok (c, rest) := by
  simp only [fetchDecode] at h
  split at h
  · rename_i j rest hdecode
    cases h
    exact ⟨rest, hdecode⟩
  · cases h

theorem instr_length_pos (c : Instr) : 0 < c.length := by
  cases c with
  | playnote mask pitches => exact Nat.add_pos_left Nat.one_pos _
  | waitabs | stopnote | restart | stop | waitrel => exact Nat.succ_pos _

/-- A command that the fetch reads stands in the score as a whole (R52, R94). -/
theorem cursor_add_length_le {s : State} {c : Instr} (h : fetchDecode s = .ok c) :
    s.seq.cursor + c.length ≤ s.score.len := by
  obtain ⟨rest, hdecode⟩ := decode_of_fetchDecode h
  obtain ⟨hwf, hbytes⟩ := decodedBytesAreTheEncoding _ _ _ hdecode
  have hlen := congrArg List.length hbytes
  rw [Memory.window_length, List.length_append, encode_length hwf] at hlen
  have hpos := instr_length_pos c
  omega

section
variable {s t : State} {c : Instr}

/-- A command that completes leaves a channel, stops it, or starts it with a decrement of the lookup. -/
theorem Completes.inRange (h : Completes s c t) {i : Fin 4} (hin : (s.ch.get i).InRange) : (t.ch.get i).InRange := by
  cases h with
  | stopnote m =>
    rw [State.setCursor_ch, State.setCh_ch, mapSelected_get]
    split
    · exact Channel.inRange_of_inactive rfl
    · exact hin
  | playnote m ps ds hlen hds =>
    rw [State.setCursor_ch, State.setCh_ch, mapSelected_get]
    split
    · obtain ⟨p, -, hdec⟩ := noteDecrement_of_selects hlen hds ‹_›
      exact startedChannel_inRange (noteDecrement_le hdec)
    · exact hin
  | stop => exact Channel.inRange_of_inactive (by simp)
  | waitabs | restart | waitrel => exact hin

/-- Only `Stop` ends playback in a burst, and it leaves every channel inactive (R77). -/
theorem Completes.inactive_of_stopped (h : Completes s c t) (he : s.seq.state = .executingCommands)
    (hstop : t.seq.state = .stopped) (i : Fin 4) : (t.ch.get i).active = false := by
  cases h with
  | stop => simp
  | waitabs | waitrel => cases hstop
  | stopnote | playnote | restart => cases he.symm.trans hstop

/-- R78, R79: a wait that a command loads is 1 to 32767 + 31 ticks. -/
theorem Completes.wait_bounds (h : Completes s c t) (hinv : s.Inv) (he : s.seq.state = .executingCommands)
    (hw : t.seq.state = .waiting) : 1 ≤ t.seq.remainingWaitTicks ∧ t.seq.remainingWaitTicks ≤ 32798 := by
  cases h with
  | waitabs v hv =>
    have hle : v.toNat ≤ 32767 := Nat.le_of_lt_succ v.isLt
    exact ⟨Nat.one_le_iff_ne_zero.mpr hv, hle.trans (by decide)⟩
  | waitrel d hvalid hpos =>
    obtain ⟨-, hmax⟩ := hinv.baseline hvalid
    have hd := BitVec.toInt_lt (x := d)
    have hdef : relativeWait s d = s.seq.waitBaseline + d.toInt := rfl
    rw [enterWaiting_remaining]
    simp only [Config.waitAbsMax] at hmax
    omega
  | stop => cases hw
  | stopnote | playnote | restart => cases he.symm.trans hw

/-- R78: a baseline that a command leaves valid is 1 to 32767. -/
theorem Completes.baseline_bounds (h : Completes s c t) (hinv : s.Inv) (hvalid : t.seq.baselineValid = true) :
    1 ≤ t.seq.waitBaseline ∧ t.seq.waitBaseline ≤ Config.waitAbsMax := by
  cases h with
  | waitabs v hv => exact ⟨Nat.one_le_iff_ne_zero.mpr hv, Nat.le_of_lt_succ v.isLt⟩
  | stopnote | playnote | restart | stop | waitrel => exact hinv.baseline hvalid

theorem Completes.cursor_le (h : Completes s c t) (hc : fetchDecode s = .ok c) (hplay : t.seq.state ≠ .stopped) :
    t.seq.cursor ≤ t.score.len := by
  have hne : c ≠ .stop := by
    rintro rfl
    cases h
    exact hplay rfl
  rw [h.cursor_eq hne, h.score_eq]
  split
  · exact Nat.zero_le _
  · exact cursor_add_length_le hc

theorem Completes.inv (h : Completes s c t) (hinv : s.Inv) (he : s.seq.state = .executingCommands)
    (hc : fetchDecode s = .ok c) : t.Inv where
  channels i := h.inRange (hinv.channels i)
  stopped := h.inactive_of_stopped he
  waiting := h.wait_bounds hinv he
  baseline := h.baseline_bounds hinv
  cursor := h.cursor_le hc
  memory := h.score_eq ▸ hinv.memory
  capacity := h.score_eq ▸ hinv.capacity

end

/-- Settles O18: a step raises a fault, completes a command, or is an agent's step outside a burst. -/
theorem everyStepKeepsTheInvariant : Obligations.EveryStepKeepsTheInvariant := by
  intro s t hinv h
  obtain ⟨-, ⟨he, c, hc, hx⟩ | ⟨-, f, -, rfl⟩ | ⟨-, rfl⟩⟩ := step_cases h
  · obtain ⟨f, rfl⟩ | hx := exec_cases hx
    · exact hinv.raiseFault f
    · exact hx.inv hinv he hc
  · exact hinv.raiseFault f
  · exact hinv.takeEvent.applyEvent s.nextEvent

end Sys2Proof.Machine
end

section
/-! The family of 60_exceptions.md: the faults of the fetch (R93, R94, R99), the fault of `Play` (R98), and what a fault
writes and ends (R91). -/

namespace Sys2Proof.Machine

/-! The fetch window at the first byte. -/

section
variable {m : Memory} {c : Nat} {b0 : Byte}

theorem Memory.window_eq_nil (h : m.len ≤ c) (n : Nat) : m.window c n = [] := by
  rw [← List.length_eq_zero_iff, Memory.window_length, Nat.sub_eq_zero_of_le h, Nat.min_zero]

theorem Memory.window_succ (h : m.read c = some b0) (n : Nat) : m.window c (n + 1) = b0 :: m.window (c + 1) n := by
  simp only [Memory.window, h]

theorem Memory.lt_len_of_read (h : m.read c = some b0) : c < m.len := by
  by_contra hle
  cases h.symm.trans (Memory.read_eq_none.mpr (Nat.le_of_not_lt hle))

end

/-- No command is longer than the fetch window (R51). -/
theorem firstByteLength_le {b0 : Byte} {n : Nat} (h : firstByteLength b0 = some n) : n ≤ maxLength := by
  cases firstByte b0 with
  | waitabs hi => cases (firstByteLength_waitabs hi).symm.trans h; decide
  | stopnote mask => cases (firstByteLength_stopnote mask).symm.trans h; decide
  | playnote mask =>
    cases (firstByteLength_playnote mask).symm.trans h
    exact Nat.add_le_add_left (popcount_le_four mask) 1
  | restart => cases firstByteLength_restart.symm.trans h; decide
  | stop => cases firstByteLength_stop.symm.trans h; decide
  | waitrel delta => cases (firstByteLength_waitrel delta).symm.trans h; decide
  | illegal hill => cases (firstByteLength_illegal hill).symm.trans h

/-! The faults of the fetch. -/

section
variable {s : State} {b0 : Byte} {n : Nat}

/-- In a burst, bytes at the cursor that the decoder rejects raise the fault of the rejection (R99). -/
theorem step_of_reject {r : Reject} (hf : s.fault = none) (he : s.seq.state = .executingCommands)
    (h : decode (s.score.window s.seq.cursor maxLength) = .error r) :
    step s = .next (raiseFault (rejectFault s.seq.cursor r) s) := by
  have hfetch : fetchDecode s = .error (rejectFault s.seq.cursor r) := by simp only [fetchDecode, h]
  simp only [step_dispatch hf he, dispatchStep, hfetch]

theorem decode_window_of_illegal (h : s.score.read s.seq.cursor = some b0) (hill : IllegalFirstByte b0) :
    decode (s.score.window s.seq.cursor maxLength) = .error (.illegalOpcode b0) := by
  rw [maxLength, Memory.window_succ h, decode_illegal _ hill]

theorem decode_window_of_no_first_byte (h : s.score.len ≤ s.seq.cursor) :
    decode (s.score.window s.seq.cursor maxLength) = .error (.overrun 0) := by
  rw [Memory.window_eq_nil h, decode_nil]

/-- The window ends with the score, as the command is no longer than the window; so the first byte that is missing is
the one at `scoreLen`. -/
theorem decode_window_of_cut (h : s.score.read s.seq.cursor = some b0) (hn : firstByteLength b0 = some n)
    (hcut : s.score.len < s.seq.cursor + n) :
    decode (s.score.window s.seq.cursor maxLength) = .error (.overrun (s.score.len - s.seq.cursor)) := by
  have hstart := Memory.lt_len_of_read h
  have hfit := firstByteLength_le hn
  have hlen : (s.score.window s.seq.cursor maxLength).length = s.score.len - s.seq.cursor := by
    rw [Memory.window_length]; omega
  have hhead : (s.score.window s.seq.cursor maxLength).head? = some b0 := by rw [maxLength, Memory.window_succ h]; rfl
  exact (truncatedCommandsAreRejected _ _).mpr ⟨hlen.symm, .inr ⟨b0, n, hhead, hn, by rw [hlen]; omega⟩⟩

/-- A burst at the end of the score or beyond faults at the cursor (R94). -/
theorem step_of_no_first_byte (hf : s.fault = none) (he : s.seq.state = .executingCommands)
    (h : s.score.len ≤ s.seq.cursor) : step s = .next (raiseFault (.scoreOverrun s.seq.cursor) s) :=
  step_of_reject hf he (decode_window_of_no_first_byte h)

end

/-- Settles O14. -/
theorem stepRaisesIllegalOpcode : Obligations.StepRaisesIllegalOpcode := by
  intro s b0 hf he h hill
  exact step_of_reject hf he (decode_window_of_illegal h hill)

/-- `Play` of an empty score never exceeds the capacity, and starts a burst at the end of the score (R94). -/
theorem play_nil (s : State) :
    (play [] s).fault = s.fault ∧ (play [] s).seq.state = .executingCommands ∧ (play [] s).seq.cursor = 0 ∧
      (play [] s).score.len = 0 := by
  obtain ⟨hlt, -⟩ | ⟨-, hscore, hseq, -, -, hfault, -⟩ := play_cases [] s
  · exact absurd hlt (Nat.not_lt_zero _)
  · exact ⟨hfault, by rw [hseq], by rw [hseq], by rw [hscore, Memory.ofBytes_len, List.length_nil]⟩

/-- Settles O15: the first byte is missing, or a later one, or the score is empty and its first byte is missing. -/
theorem stepRaisesScoreOverrun : Obligations.StepRaisesScoreOverrun := by
  refine ⟨fun s => step_of_no_first_byte, fun s b0 n hf he h hn hcut => ?_, fun s hf he hev => ?_⟩
  · have hend : s.seq.cursor + (s.score.len - s.seq.cursor) = s.score.len :=
      Nat.add_sub_of_le (Memory.lt_len_of_read h).le
    rw [step_of_reject hf he (decode_window_of_cut h hn hcut), rejectFault, hend]
    rfl
  · obtain ⟨hfault, hstate, hcursor, hlen⟩ := play_nil s.takeEvent
    have htf : (play [] s.takeEvent).fault = none := hfault.trans ((takeEvent_fault s).trans hf)
    refine ⟨play [] s.takeEvent, step_event hf he hev, htf, ?_⟩
    rw [step_of_no_first_byte htf hstate (hlen.trans_le (Nat.zero_le _)), hcursor]
    rfl

/-! What a fault writes and ends. -/

/-- Outside a burst a fault is raised in the state that the agent's step finds. -/
theorem applyEvent_eq_raiseFault {e : Event} {s : State} {f : Fault} (hf : s.fault = none)
    (h : (applyEvent e s).fault = some f) : applyEvent e s = raiseFault f s := by
  cases e with
  | play bytes =>
    rw [applyEvent] at h ⊢
    obtain ⟨-, heq⟩ | ⟨-, -, -, -, -, hfault, -⟩ := play_cases bytes s
    · rw [heq] at h ⊢
      cases h
      rfl
    · cases hf.symm.trans (hfault.symm.trans h)
  | slowTick => cases hf.symm.trans ((slowTick_fault s).symm.trans h)
  | stop | readRunning | fastTick => cases hf.symm.trans h

/-- A step that faults raises the fault and does nothing else, but that one outside a burst takes its event off the
schedule (R91). -/
theorem step_eq_raiseFault {s t : State} {f : Fault} (h : step s = .next t) (htf : t.fault = some f) :
    t = raiseFault f s ∨ t = raiseFault f s.takeEvent := by
  obtain ⟨hf, ⟨-, c, -, hx⟩ | ⟨-, g, -, rfl⟩ | ⟨-, rfl⟩⟩ := step_cases h
  · obtain ⟨g, rfl⟩ | hx := exec_cases hx
    · cases htf; exact .inl rfl
    · cases hf.symm.trans (hx.fault_eq.symm.trans htf)
  · cases htf; exact .inl rfl
  · exact .inr (applyEvent_eq_raiseFault ((takeEvent_fault s).trans hf) htf)

section
variable {s : State} {f : Fault}

theorem step_of_fault (h : s.fault = some f) : step s = .fault f := by
  simp only [step, h]

theorem agentEnabled_of_fault (h : s.fault = some f) (a : Agent) : agentEnabled a s = false := by
  simp [agentEnabled, h]

theorem not_final_of_fault (h : s.fault = some f) : ¬ s.Final := by
  rintro ⟨hf, -⟩
  cases hf.symm.trans h

end

/-- Settles O16. -/
theorem faultsWriteNothingAndAreTerminal : Obligations.FaultsWriteNothingAndAreTerminal := by
  refine ⟨fun s t f h htf => ?_, fun s f h => ⟨step_of_fault h, agentEnabled_of_fault h, not_final_of_fault h⟩⟩
  obtain rfl | rfl := step_eq_raiseFault h htf
  · exact ⟨rfl, rfl, rfl, rfl⟩
  · exact ⟨takeEvent_ch s, takeEvent_out s, takeEvent_seq s, takeEvent_score s⟩

/-! The fault of `Play`. -/

theorem play_of_tooLarge {bytes : List Byte} (h : Config.scoreCapacity < bytes.length) (s : State) :
    play bytes s = raiseFault (.scoreTooLarge bytes.length) s := by
  obtain ⟨-, heq⟩ | ⟨hle, -⟩ := play_cases bytes s
  · exact heq
  · exact absurd h (Nat.not_lt.mpr hle)

/-- Settles O42: the length check comes before every write, so the fault is all that the step leaves (R91). -/
theorem playOfTooLargeAScoreFaults : Obligations.PlayOfTooLargeAScoreFaults := by
  intro s bytes hf he hev hlarge
  have hstep := step_event hf he hev
  rw [applyEvent, play_of_tooLarge hlarge] at hstep
  obtain ⟨hwrites, -⟩ := faultsWriteNothingAndAreTerminal
  exact ⟨_, hstep, rfl, hwrites s _ _ hstep rfl⟩

end Sys2Proof.Machine
end

section
/-! The family of 70_reset_and_hazards.md: `Play` loads the score and starts the first burst (R63, R111). -/

namespace Sys2Proof.Machine

/-- `Play` deactivates every channel where playback is on, and in `Stopped` leaves the channels alone. -/
theorem play_active {bytes : List Byte} (h : bytes.length ≤ Config.scoreCapacity) (s : State) (i : Fin 4) :
    ((play bytes s).ch.get i).active = (decide (s.seq.state = .stopped) && (s.ch.get i).active) := by
  obtain ⟨hlarge, -⟩ | ⟨-, -, -, hch, -⟩ := play_cases bytes s
  · exact absurd hlarge (Nat.not_lt.mpr h)
  · rw [hch]
    by_cases hstop : s.seq.state = .stopped
    · rw [if_pos hstop, decide_eq_true hstop, Bool.true_and]
    · rw [if_neg hstop, decide_eq_false hstop, Bool.false_and, Channel.deactivate_active]

/-- The channels that `Play` leaves alone are those of `Stopped`, which the invariant has inactive (R65). -/
theorem State.Inv.stopped_and_active {s : State} (h : s.Inv) (i : Fin 4) :
    (decide (s.seq.state = .stopped) && (s.ch.get i).active) = false := by
  by_cases hstop : s.seq.state = .stopped
  · rw [h.stopped hstop i, Bool.and_false]
  · rw [decide_eq_false hstop, Bool.false_and]

/-- Settles O41: the length check passes, so `Play` does its writes in the state that the agent's step finds. -/
theorem playLoadsAndStartsTheFirstBurst : Obligations.PlayLoadsAndStartsTheFirstBurst := by
  intro s bytes hf he hev hfit
  have hactive := play_active hfit s.takeEvent
  rw [takeEvent_ch, takeEvent_seq] at hactive
  obtain ⟨hlarge, -⟩ | ⟨-, hscore, hseq, -, -, hfault, -⟩ := play_cases bytes s.takeEvent
  · exact absurd hlarge (Nat.not_lt.mpr hfit)
  · refine ⟨play bytes s.takeEvent, step_event hf he hev, ?_, fun a => ?_, ?_, fun i => ⟨?_, ?_, hactive i⟩,
      fun hinv i => (hactive i).trans (hinv.stopped_and_active i), ?_, ?_⟩
    · rw [hscore, Memory.ofBytes_len]
    · rw [hscore, Memory.ofBytes_read]
    · rw [hseq, takeEvent_seq]
    · rw [play_decrement, takeEvent_ch]
    · rw [play_accumulator, takeEvent_ch]
    · rw [play_out, takeEvent_out]
    · rw [hfault, takeEvent_fault, hf]

end Sys2Proof.Machine
end
